-- ==== Sys2Proof/Word.lean ====
section
/-! DEFINITION. The byte of both links. -/

namespace Sys2Proof

/-- One byte on the control link or the console bus. -/
abbrev Byte := BitVec 8

end Sys2Proof
end

