-- ==== Sys2Proof/Config.lean ====
section
/-! DEFINITION. The exact capacities of the part (00_scope.md, Figures) and the free values: what the spec leaves open
and the machine nevertheless produces. A free value has no body, so nothing can be proved of it. -/

namespace Sys2Proof.Config

/-- Slots of the Call Table (R2). -/
def slotCount : Nat := 256
/-- Outbound queue capacity (R194). -/
def outboundCapacity : Nat := 128
/-- Free outbound entries that admission asks for (R194). -/
def reserve : Nat := 16
/-- Calls that one station's camp list and camp ring together hold (R126). -/
def stationRoom : Nat := 3
/-- Entries of the camp-on pool (R126). -/
def poolSize : Nat := 64
/-- Messages that a console output buffer holds (R204). -/
def bufferCapacity : Nat := 16
/-- Largest value of the arrival sequence counter (R30). -/
def maxSequence : Nat := 4294967295
/-- Largest value of the 48-bit time count (R143). -/
def maxTime : Nat := 281474976710655
/-- Highest station number (R108). -/
def maxStation : Nat := 4095
/-- The 16-bit value that carries an absent station (R196, R207). -/
def absentStation : Nat := 65535

/-- DESIGN CHOICE (log 9), safe: the time count after its largest value; R143 says only that the count does not wrap
within the service life. The argument is the number of free values drawn before. -/
opaque timeCountPastMax : Nat → BitVec 48

/-- DESIGN CHOICE (log 8), safe: the panel bytes of a DISPLAY item whose call panel is blank, which R206 says are
ignored and gives no value. Arguments: free values drawn before, and the byte's place in the panel; so every poll draws its own,
a repeat of R199 too. -/
opaque ignoredPanelByte : Nat → Nat → BitVec 8

/-- DESIGN CHOICE (log 10), safe: the reference field of the BAD_VALUE answer to a TAKE that gave no reference (R191
says "the reference given"). The argument is the number of free values drawn before. -/
opaque takeBadValueReference : Nat → BitVec 16

/-- DESIGN CHOICE (log 25), safe: bits 7 to 4 of the control byte of a poll; R206 gives bits 3 to 0 only. The argument is the
number of free values drawn before. -/
opaque pollUnusedBits : Nat → BitVec 4

/-- DESIGN CHOICE (log 26): the bits of an answer's payload that R191 and R196 give to no field. The argument is the payload
with those bits clear, so that a frame sent again carries the same bits (R186). -/
opaque payloadUnusedBits : List (BitVec 8) → BitVec 8

end Sys2Proof.Config
end

