-- ==== Sys2Proof/Syntax.lean ====
section
/-! DEFINITION. The commands: one constructor for each row of spec/opcode_table.json. Operands are numbers as the link
carries them; the rule that owns a value checks it. -/

namespace Sys2Proof

/-- An event that a console reports in a reply (R206): a key with its code and argument, or a dialled station. -/
inductive ConEvent where
  | key (code arg : Nat)
  | dial (station : Nat)
  deriving DecidableEq, Repr

/-- The part's steps, one for each row of the table of operations and events. -/
inductive Instr where
  -- reset and clock (R211, R212, R143)
  | hardwareReset
  | resetNRelease
  | startUpEnd
  | timeCountTick
  -- transactions (R184 to R189); the operand is the number of whole bytes clocked: from the status byte on for a
  -- status poll, after the status byte for a READ
  | statusPoll (bytes : Nat)
  | read (bytes : Nat)
  | malformedRequest
  -- Call Table (R8 to R24)
  | present (kind number cls grp : Nat) (tag : List Nat)
  | cleared (ref : Nat)
  | take (selector cond kind value : Nat)
  | query (ref : Nat)
  | scan (first rep : Nat)
  | scanStep
  -- reports (R91, R150)
  | ringResult (ref attempt outcome : Nat)
  | divertResult (ref outcome : Nat)
  -- Station Directory (R110 to R113)
  | stationState (station code : Nat)
  | stationBlock (first count : Nat) (codes : List Nat)
  | blockUpdateStep
  | stationAttr (station flags : Nat)
  -- CONFIGURE (R207)
  | configureClass (cls base weight overflow : Nat)
  | configureAgeShift (index shift : Nat)
  | configureBypassLimit (index limit : Nat)
  | configureRecallLimit (index limit : Nat)
  | configureGroup (grp offerMode policy overflow night sweepPolicy depth : Nat)
  | configurePosition (pos enabled grp : Nat)
  | configureTimers (index warning offer hold recallRing noAnswer camp sweep : Nat)
  | configureHunt (range configured first last dir mode : Nat)
  | configureUnknownItem (item index : Nat)
  | restart
  | linkClear
  -- the part's own events (R42, R144, R178, R63); an expiry names its record's slot
  | pairing (grp : Nat)
  | queueExpiry (slot : Nat)
  | warningExpiry (slot : Nat)
  | offerExpiry (slot : Nat)
  | holdExpiry (slot : Nat)
  | recallRingExpiry (slot : Nat)
  | noAnswerExpiryExtending (slot : Nat)
  | noAnswerExpiryRingingAway (slot : Nat)
  | campRingNoAnswerExpiry (slot : Nat)
  | campExpiry (slot : Nat)
  | sweepStep (grp : Nat)
  | releaseStep (pos : Nat)
  -- console bus (R197 to R203)
  | pollCycle
  | poll (pos : Nat)
  | countedReply (pos : Nat) (inSeq : Bool) (events : List ConEvent)
  | missedPoll (pos : Nat)
  | presenceRestore (pos : Nat) (inSeq : Bool) (events : List ConEvent)
  -- keys and dial events at a position (R57, R201)
  | answer (pos : Nat)
  | loop (pos arg : Nat)
  | hold (pos : Nat)
  | release (pos : Nat)
  | extend (pos : Nat)
  | extendBlind (pos : Nat)
  | retry (pos : Nat)
  | hunt (pos arg : Nat)
  | cancel (pos : Nat)
  | swap (pos : Nat)
  | camp (pos : Nat)
  | ready (pos : Nat)
  | breakKey (pos : Nat)
  | signIn (pos : Nat)
  | signOut (pos : Nat)
  | unknownKey (pos code arg : Nat)
  | dial (pos station : Nat)
  deriving DecidableEq, Repr

end Sys2Proof
end

