-- ==== Sys2Proof/WellFormed.lean ====
section
/-! DEFINITION. Which commands the outside world can spell: the operand widths of the frames (R187, R196, R207), of the
console bus (R206), and the number of each place of the part (R1, Conventions). A well-formed command may still carry a
value that its owner refuses. -/

namespace Sys2Proof

/-- A field of one byte. -/
def isByte (n : Nat) : Bool := n < 256
/-- A field of two bytes. -/
def isHalf (n : Nat) : Bool := n < 65536
/-- A position number (R53). -/
def isPosition (n : Nat) : Bool := 1 ≤ n && n ≤ 8
/-- A group number (R27). -/
def isGroup (n : Nat) : Bool := n < 4
/-- A slot number (R2). -/
def isSlot (n : Nat) : Bool := n < 256

/-- The codes of the keys that R201 names. -/
def isKnownKey (code : Nat) : Bool := 1 ≤ code && code ≤ 15
/-- The CONFIGURE item codes that R207 names. -/
def isKnownItem (item : Nat) : Bool := 1 ≤ item && item ≤ 8

/-- An event as an item of a reply carries it (R206). -/
def ConEvent.wf : ConEvent → Bool
  | .key code arg => isByte code && isByte arg
  | .dial station => isHalf station

/-- The events of one reply: at most four (R206). -/
def wfEvents (evs : List ConEvent) : Bool := evs.length ≤ 4 && evs.all ConEvent.wf

/-- The tag of a PRESENT frame: at most 24 characters fit (R187). -/
def wfTag (tag : List Nat) : Bool := tag.length ≤ 24 && tag.all isByte

/-- The codes of a STATION_BLOCK frame: one for each counted station, four bits each, at most 54 (R187, R196). -/
def wfCodes (count : Nat) (codes : List Nat) : Bool :=
  codes.length == count && count ≤ 54 && codes.all (fun c => c < 16)

/-- Can the outside world spell this command? -/
def Instr.wf : Instr → Bool
  | .hardwareReset | .resetNRelease | .startUpEnd | .timeCountTick => true
  | .statusPoll _ | .read _ | .malformedRequest => true
  | .present kind number cls grp tag => isByte kind && isHalf number && isByte cls && isByte grp && wfTag tag
  | .cleared ref => isHalf ref
  | .take selector cond kind value => isByte selector && isByte cond && isByte kind && isHalf value
  | .query ref => isHalf ref
  | .scan first rep => isByte first && isByte rep
  | .scanStep => true
  | .ringResult ref attempt outcome => isHalf ref && isByte attempt && isByte outcome
  | .divertResult ref outcome => isHalf ref && isByte outcome
  | .stationState station code => isHalf station && isByte code
  | .stationBlock first count codes => isHalf first && wfCodes count codes
  | .blockUpdateStep => true
  | .stationAttr station flags => isHalf station && isByte flags
  | .configureClass cls base weight overflow => isByte cls && isHalf base && isByte weight && isHalf overflow
  | .configureAgeShift index shift => isByte index && isByte shift
  | .configureBypassLimit index limit => isByte index && isByte limit
  | .configureRecallLimit index limit => isByte index && isByte limit
  | .configureGroup grp offerMode policy overflow night sweepPolicy depth =>
    isByte grp && isByte offerMode && isByte policy && isHalf overflow && isHalf night && isByte sweepPolicy && isByte depth
  | .configurePosition pos enabled grp => isByte pos && isByte enabled && isByte grp
  | .configureTimers index w o h r n c x =>
    isByte index && isHalf w && isHalf o && isHalf h && isHalf r && isHalf n && isHalf c && isByte x
  | .configureHunt range configured first last dir mode =>
    isByte range && isByte configured && isHalf first && isHalf last && isByte dir && isByte mode
  | .configureUnknownItem item index => isByte item && isByte index && !isKnownItem item
  | .restart | .linkClear => true
  | .pairing grp | .sweepStep grp => isGroup grp
  | .queueExpiry slot | .warningExpiry slot | .offerExpiry slot | .holdExpiry slot | .recallRingExpiry slot
  | .noAnswerExpiryExtending slot | .noAnswerExpiryRingingAway slot | .campRingNoAnswerExpiry slot
  | .campExpiry slot => isSlot slot
  | .pollCycle => true
  | .poll pos | .missedPoll pos | .releaseStep pos => isPosition pos
  | .countedReply pos _ events | .presenceRestore pos _ events => isPosition pos && wfEvents events
  | .answer pos | .hold pos | .release pos | .extend pos | .extendBlind pos | .retry pos | .cancel pos | .swap pos
  | .camp pos | .ready pos | .breakKey pos | .signIn pos | .signOut pos => isPosition pos
  | .loop pos arg | .hunt pos arg => isPosition pos && isByte arg
  | .unknownKey pos code arg => isPosition pos && isByte code && isByte arg && !isKnownKey code
  | .dial pos station => isPosition pos && isHalf station

end Sys2Proof
end

