-- ==== Sys2Proof/Decode.lean ====
section
/-! DEFINITION. From bytes to commands and back. No row of spec/opcode_table.json gives bits, so `decodeTableWord`
answers none. What the spec does give is the framing of the control link (R184, R187, R196, R207) and of a console's
reply (R197, R206): `decodeTransaction` and `decodeReply` read them, `encodeRequest` writes a request's frame. -/

namespace Sys2Proof

/-- The command that a word spells by the table's bits: the table gives bits to no row. -/
def decodeTableWord (_nbits _w : Nat) : Option Instr := none

/-! ## Byte order (R196: most significant byte first) -/

/-- One byte. -/
def be8 (n : Nat) : List Byte := [BitVec.ofNat 8 n]
/-- Two bytes, the most significant first. -/
def be16 (n : Nat) : List Byte := [BitVec.ofNat 8 (n / 256), BitVec.ofNat 8 n]
/-- Four bytes, the most significant first. -/
def be32 (n : Nat) : List Byte := be16 (n / 65536) ++ be16 n

/-- The number that two bytes carry, the most significant first. -/
def rd16 (hi lo : Byte) : Nat := hi.toNat * 256 + lo.toNat

/-- State codes two to a byte, the first in the high four bits (R196). -/
def unpackCodes : List Byte → List Nat
  | [] => []
  | b :: rest => b.toNat / 16 :: b.toNat % 16 :: unpackCodes rest

/-- State codes packed two to a byte; the last low half of an odd count is 0 (R196). -/
def packCodes : List Nat → List Byte
  | [] => []
  | [a] => [BitVec.ofNat 8 (a * 16)]
  | a :: b :: rest => BitVec.ofNat 8 (a * 16 + b) :: packCodes rest

/-! ## Request frames (R187, R196, R207) -/

/-- PRESENT: length 6 plus the tag length in body byte 5. -/
def decodePresent : List Byte → Instr
  | k :: n1 :: n0 :: c :: g :: t :: tag =>
    if tag.length = t.toNat then .present k.toNat (rd16 n1 n0) c.toNat g.toNat (tag.map BitVec.toNat)
    else .malformedRequest
  | _ => .malformedRequest

/-- STATION_BLOCK: length 3 plus half the count in body byte 2, rounded up. -/
def decodeStationBlock : List Byte → Instr
  | f1 :: f0 :: c :: codes =>
    if codes.length = (c.toNat + 1) / 2 then .stationBlock (rd16 f1 f0) c.toNat ((unpackCodes codes).take c.toNat)
    else .malformedRequest
  | _ => .malformedRequest

/-- CONFIGURE (R207): an item of the table with another length than its own is malformed; an item code that is not in
the table is well-formed at any length from 2. -/
def decodeConfigure : List Byte → Instr
  | item :: index :: fields =>
    match item.toNat, fields with
    | 1, [b1, b0, w, o1, o0] => .configureClass index.toNat (rd16 b1 b0) w.toNat (rd16 o1 o0)
    | 2, [x] => .configureAgeShift index.toNat x.toNat
    | 3, [x] => .configureBypassLimit index.toNat x.toNat
    | 4, [x] => .configureRecallLimit index.toNat x.toNat
    | 5, [m, p, o1, o0, n1, n0, w, d] =>
      .configureGroup index.toNat m.toNat p.toNat (rd16 o1 o0) (rd16 n1 n0) w.toNat d.toNat
    | 6, [e, g] => .configurePosition index.toNat e.toNat g.toNat
    | 7, [w1, w0, o1, o0, h1, h0, r1, r0, n1, n0, c1, c0, x] =>
      .configureTimers index.toNat (rd16 w1 w0) (rd16 o1 o0) (rd16 h1 h0) (rd16 r1 r0) (rd16 n1 n0) (rd16 c1 c0) x.toNat
    | 8, [c, f1, f0, l1, l0, d, m] =>
      .configureHunt index.toNat c.toNat (rd16 f1 f0) (rd16 l1 l0) d.toNat m.toNat
    | n, _ => if isKnownItem n then .malformedRequest else .configureUnknownItem n index.toNat
  | _ => .malformedRequest

/-- The request that a kind byte and a complete body spell (R187). -/
def decodeBody (kind : Nat) (body : List Byte) : Instr :=
  match kind, body with
  | 0x01, b => decodePresent b
  | 0x02, [r1, r0] => .cleared (rd16 r1 r0)
  | 0x03, [r1, r0, a, o] => .ringResult (rd16 r1 r0) a.toNat o.toNat
  | 0x04, [r1, r0, o] => .divertResult (rd16 r1 r0) o.toNat
  | 0x05, [s1, s0, c] => .stationState (rd16 s1 s0) c.toNat
  | 0x06, b => decodeStationBlock b
  | 0x07, [s1, s0, f] => .stationAttr (rd16 s1 s0) f.toNat
  | 0x08, [s, c, k, v1, v0] => .take s.toNat c.toNat k.toNat (rd16 v1 v0)
  | 0x09, [r1, r0] => .query (rd16 r1 r0)
  | 0x0A, [f, r] => .scan f.toNat r.toNat
  | 0x0B, b => decodeConfigure b
  | 0x0C, [] => .restart
  | 0x0D, [] => .linkClear
  | _, _ => .malformedRequest

/-- What a WRITE carries after its transaction code (R187): no frame byte, a malformed frame, or a request. Bytes after
a complete frame are ignored. -/
def decodeWrite : List Byte → Instr
  | [] => .statusPoll 1
  | [_] => .malformedRequest
  | kind :: len :: rest =>
    if len.toNat ≤ 30 ∧ len.toNat ≤ rest.length then decodeBody kind.toNat (rest.take len.toNat) else .malformedRequest

/-- A transaction (R184): the bytes that the master shifted in, whole bytes only. -/
def decodeTransaction : List Byte → Instr
  | [] => .statusPoll 0
  | code :: rest =>
    match code.toNat with
    | 1 => .read rest.length
    | 2 => decodeWrite rest
    | _ => .statusPoll (1 + rest.length)

/-- A frame: kind, length, body. -/
def requestFrame (kind : Nat) (body : List Byte) : List Byte :=
  BitVec.ofNat 8 kind :: BitVec.ofNat 8 body.length :: body

/-- A CONFIGURE frame: item code, index, fields. -/
def configureFrame (item index : Nat) (fields : List Byte) : List Byte :=
  requestFrame 0x0B (be8 item ++ be8 index ++ fields)

/-- The frame of a request (R187, R196, R207); none for a command that is not a request on the link. -/
def encodeRequest : Instr → Option (List Byte)
  | .present kind number cls grp tag =>
    some (requestFrame 0x01
      (be8 kind ++ be16 number ++ be8 cls ++ be8 grp ++ be8 tag.length ++ tag.map (BitVec.ofNat 8)))
  | .cleared ref => some (requestFrame 0x02 (be16 ref))
  | .ringResult ref attempt outcome => some (requestFrame 0x03 (be16 ref ++ be8 attempt ++ be8 outcome))
  | .divertResult ref outcome => some (requestFrame 0x04 (be16 ref ++ be8 outcome))
  | .stationState station code => some (requestFrame 0x05 (be16 station ++ be8 code))
  | .stationBlock first count codes => some (requestFrame 0x06 (be16 first ++ be8 count ++ packCodes codes))
  | .stationAttr station flags => some (requestFrame 0x07 (be16 station ++ be8 flags))
  | .take selector cond kind value =>
    some (requestFrame 0x08 (be8 selector ++ be8 cond ++ be8 kind ++ be16 value))
  | .query ref => some (requestFrame 0x09 (be16 ref))
  | .scan first rep => some (requestFrame 0x0A (be8 first ++ be8 rep))
  | .configureClass cls base weight overflow => some (configureFrame 1 cls (be16 base ++ be8 weight ++ be16 overflow))
  | .configureAgeShift index shift => some (configureFrame 2 index (be8 shift))
  | .configureBypassLimit index limit => some (configureFrame 3 index (be8 limit))
  | .configureRecallLimit index limit => some (configureFrame 4 index (be8 limit))
  | .configureGroup grp offerMode policy overflow night sweepPolicy depth =>
    some (configureFrame 5 grp
      (be8 offerMode ++ be8 policy ++ be16 overflow ++ be16 night ++ be8 sweepPolicy ++ be8 depth))
  | .configurePosition pos enabled grp => some (configureFrame 6 pos (be8 enabled ++ be8 grp))
  | .configureTimers index warning offer hold recallRing noAnswer camp sweep =>
    some (configureFrame 7 index
      (be16 warning ++ be16 offer ++ be16 hold ++ be16 recallRing ++ be16 noAnswer ++ be16 camp ++ be8 sweep))
  | .configureHunt range configured first last dir mode =>
    some (configureFrame 8 range (be8 configured ++ be16 first ++ be16 last ++ be8 dir ++ be8 mode))
  | .configureUnknownItem item index => some (configureFrame item index [])
  | .restart => some (requestFrame 0x0C [])
  | .linkClear => some (requestFrame 0x0D [])
  | _ => none

/-! ## A console's reply (R197, R206) -/

/-- The check byte: exclusive OR of the bytes before it (R206). -/
def checkByte (bytes : List Byte) : Byte := bytes.foldl (· ^^^ ·) 0

/-- Exactly `count` event items, every one of a known type. -/
def decodeEvents : Nat → List Byte → Option (List ConEvent)
  | 0, [] => some []
  | n + 1, t :: a :: b :: rest =>
    if t.toNat = 1 then (decodeEvents n rest).map (.key a.toNat b.toNat :: ·)
    else if t.toNat = 2 then (decodeEvents n rest).map (.dial (rd16 a b) :: ·)
    else none
  | _, _ => none

/-- The in sequence bit and the events of a reply that counts by its bytes (R197); none for one that does not. The
reply windows are not in the bytes (log 13). DESIGN CHOICE, log 16: bits 7 to 4 of the control byte are not read, a reply
with more than four events does not count, and one with bytes after its check byte does not count. -/
def decodeReply (pos : Nat) (bytes : List Byte) : Option (Bool × List ConEvent) :=
  match bytes with
  | addr :: ctrl :: len :: rest =>
    let items := rest.take len.toNat
    let count := ctrl.toNat / 2 % 8
    if addr.toNat = pos + 128 ∧ rest.length = len.toNat + 1 ∧ count ≤ 4 ∧
        rest.drop len.toNat = [checkByte (addr :: ctrl :: len :: items)] then
      (decodeEvents count items).map (ctrl.toNat % 2 == 1, ·)
    else none
  | _ => none

/-- The command that the end of an exchange at `pos` is: a reply that counts, at a present or an absent console, or a
missed poll (R197, R200, R203). -/
def decodeExchange (present : Bool) (pos : Nat) (bytes : List Byte) : Instr :=
  match decodeReply pos bytes with
  | some (inSeq, events) => if present then .countedReply pos inSeq events else .presenceRestore pos inSeq events
  | none => .missedPoll pos

end Sys2Proof
end

