-- ==== Sys2Proof/Machine/State.lean ====
section
/-! DEFINITION. The state of the part as plain data: every register, queue, list and flag the spec names, with the
queue of waiting commands. A table (`Tab`) lists the entries that differ from their hardware-reset value. -/

namespace Sys2Proof.Machine

/-- A finite table by number, in one canonical form: keys strictly rising, no entry equal to its hardware-reset value,
which is what an unlisted entry reads as (log 18). -/
abbrev Tab (α : Type) := List (Nat × α)

/-- Kind of an origin (R5). -/
inductive OriginKind where
  | trunk | station
  deriving DecidableEq, Repr

/-- States of a live record (R7). -/
inductive CallState where
  | queued | offered | talking | held | extending | ringingAway | camped | recalling | diverting
  deriving DecidableEq, Repr

/-- Side of a call that a headset is connected to (R6). -/
inductive Side where
  | source | dest
  deriving DecidableEq, Repr

/-- Progress of an extend (R83). -/
inductive Progress where
  | pending | ringing | answered | busy
  deriving DecidableEq, Repr

/-- Effective mode of an extend (R86). -/
inductive Mode where
  | screened | blind
  deriving DecidableEq, Repr

/-- Kinds of deadline (R144). -/
inductive DeadlineKind where
  | queue | warning | offer | hold | recallRing | noAnswer | camp
  deriving DecidableEq, Repr

/-- A deadline (R144). -/
structure Deadline where
  kind : DeadlineKind
  start : Nat
  duration : Nat
  deriving DecidableEq, Repr

/-- The fields of a live record (R6). -/
structure CallRecord where
  ref : Nat
  state : CallState
  originKind : OriginKind
  originNum : Nat
  tag : Option (List Nat)
  presentedClass : Nat
  queueClass : Nat
  group : Nat
  enqueueTime : Nat
  arrivalSeq : Nat
  bypass : Nat
  warning : Bool
  nightBound : Bool
  divertFailed : Bool
  home : Option Nat
  loop : Option Nat
  talkSide : Option Side
  curDest : Option Nat
  prevDest : Option Nat
  progress : Option Progress
  attempt : Nat
  mode : Mode
  fromCamp : Bool
  campStart : Option Nat
  recallCount : Nat
  deadline : Option Deadline
  deriving DecidableEq, Repr

/-- A slot of the Call Table: its generation, and its live record unless it is FREE (R2). -/
structure Slot where
  gen : Nat
  call : Option CallRecord
  deriving DecidableEq, Repr

/-- An entry of the class table (R33, R209). -/
structure ClassEntry where
  base : Nat
  weight : Nat
  overflow : Nat
  deriving DecidableEq, Repr

/-- The timers (R209). -/
structure Timers where
  warning : Nat
  offer : Nat
  hold : Nat
  recallRing : Nat
  noAnswer : Nat
  camp : Nat
  sweep : Nat
  deriving DecidableEq, Repr

/-- Offer mode of a group (R27). -/
inductive OfferMode where
  | pull | offer
  deriving DecidableEq, Repr

/-- Transfer policy of a group (R86). -/
inductive TransferPolicy where
  | screened | blind | select
  deriving DecidableEq, Repr

/-- Sweep policy of a group (R173). -/
inductive SweepPolicy where
  | staffFirst | sweepFirst
  deriving DecidableEq, Repr

/-- Day/night mode of a group (R170). -/
inductive DayNight where
  | day | night
  deriving DecidableEq, Repr

/-- Sweep state of a group; the next step time is present only while ACTIVE (R170). -/
inductive Sweep where
  | idle
  | active (nextStep : Nat)
  deriving DecidableEq, Repr

/-- A group record with its waiting queue (R27, R29, R170). -/
structure GroupRecord where
  offerMode : OfferMode
  alarmDepth : Nat
  policy : TransferPolicy
  overflow : Option Nat
  night : Option Nat
  sweepPolicy : SweepPolicy
  mode : DayNight
  sweep : Sweep
  queue : List Nat
  /-- The model's own: a pairing of R42 has been caused and not yet taken (log 6). -/
  pairingDue : Bool
  deriving DecidableEq, Repr

/-- Availability of a position (R57). -/
inductive Availability where
  | signedOut | ready | onBreak
  deriving DecidableEq, Repr

/-- Notices of a position (R80). -/
inductive Notice where
  | noCall | callerCleared | callTaken | screened | refused | destCleared | noAnswer | campersWaiting | allBusy
  deriving DecidableEq, Repr

/-- States of a loop lamp and of the OFFER lamp (R77, R78). -/
inductive Lamp where
  | dark | lit | slow | fast | wink | double | stutter
  deriving DecidableEq, Repr

/-- States of a group lamp (R50). -/
inductive GroupLamp where
  | dark | lit | flash
  deriving DecidableEq, Repr

/-- Console tones (R80). -/
inductive Tone where
  | error | notice
  deriving DecidableEq, Repr

/-- The call panel of the display (R79); `age` is the waiting age in seconds at the derivation. -/
structure Panel where
  loop : Nat
  originKind : OriginKind
  originNum : Nat
  tag : Option (List Nat)
  presentedClass : Nat
  extending : Bool
  age : Nat
  curDest : Option Nat
  prevDest : Option Nat
  progress : Option Progress
  recallCount : Nat
  deriving DecidableEq, Repr

/-- The display of a position (R79). -/
structure Display where
  panel : Option Panel
  dialled : Option Nat
  notice : Option Notice
  deriving DecidableEq, Repr

/-- Messages to a console (R206). -/
inductive ConMsg where
  /-- A loop lamp (1 to 6) or the OFFER lamp (7). -/
  | lamp (which : Nat) (state : Lamp)
  /-- The availability lamp (8). -/
  | availability (state : Availability)
  | display (d : Display)
  | tone (t : Tone)
  | group (g : Nat) (lamp : GroupLamp) (count : Nat)
  deriving DecidableEq, Repr

/-- A moment of the event in progress: the image that it has made of a position so far, and the tone, if any, that it
produces there next (R81, R204). -/
structure Moment where
  pos : Nat
  image : List ConMsg
  tone : Option Tone
  deriving DecidableEq, Repr

/-- A position record (R53) with its console link state (R198). -/
structure Position where
  enabled : Bool
  group : Nat
  avail : Availability
  loops : Tab (Option Nat)
  talkLoop : Option Nat
  offer : Option Nat
  dialled : Option Nat
  idleSince : Nat
  releaseList : List Nat
  notice : Option Notice
  missed : Nat
  present : Bool
  outSeq : Bool
  sync : Bool
  inFlight : Bool
  lastIn : Bool
  buffer : List ConMsg
  intake : List ConEvent
  deriving DecidableEq, Repr

/-- Directory states of a station (R108). -/
inductive StationState where
  | idle | busy | ringing | dnd | out
  deriving DecidableEq, Repr

/-- A station entry (R108). -/
structure Station where
  state : StationState
  prot : Bool
  campAllowed : Bool
  campList : List Nat
  ring : Option Nat
  deriving DecidableEq, Repr

/-- Direction of a hunt range (R115). -/
inductive HuntDir where
  | up | down
  deriving DecidableEq, Repr

/-- Mode of a hunt range (R115). -/
inductive HuntMode where
  | linear | circular
  deriving DecidableEq, Repr

/-- A configured hunt range (R115). -/
structure HuntRange where
  first : Nat
  last : Nat
  dir : HuntDir
  mode : HuntMode
  next : Nat
  deriving DecidableEq, Repr

/-- Answer codes (R192). -/
inductive AnswerCode where
  | ok | tableFull | duplicate | unknown | stale | late | notInState | badValue | inUse | locked
  deriving DecidableEq, Repr

/-- Request kinds (R187). -/
inductive ReqKind where
  | present | cleared | ringResult | divertResult | stationState | stationBlock | stationAttr | take | query | scan
  | configure | restart | linkClear
  deriving DecidableEq, Repr

/-- Reasons of a divert (R148). -/
inductive DivertReason where
  | overflow | recallLimit | night
  deriving DecidableEq, Repr

/-- The record image (R21). -/
structure Image where
  ref : Nat
  state : CallState
  originKind : OriginKind
  originNum : Nat
  presentedClass : Nat
  queueClass : Nat
  group : Nat
  warning : Bool
  nightBound : Bool
  divertFailed : Bool
  fromCamp : Bool
  home : Option Nat
  loop : Option Nat
  talkSide : Option Side
  mode : Mode
  curDest : Option Nat
  prevDest : Option Nat
  progress : Option Progress
  attempt : Nat
  bypass : Nat
  recallCount : Nat
  arrivalSeq : Nat
  waitingAge : Nat
  campAge : Option Nat
  /-- Kind and time remaining. -/
  deadline : Option (DeadlineKind × Nat)
  deriving DecidableEq, Repr

/-- The payload of an answer (R191). -/
inductive Payload where
  | none
  | image (im : Image)
  | scanClosing (first examined found : Nat)
  | scanBad (first rep : Nat)
  | stationWritten (station : Nat) (before written : StationState) (listLength : Nat) (ring : Bool)
  | stationBad (station : Nat)
  | blockClosing (first count : Nat)
  | attrWritten (station : Nat) (prot campAllowed : Bool)
  | configure (item index : Nat) (clamped : Bool)
  deriving DecidableEq, Repr

/-- Messages of the outbound queue: answers (R191) and orders (R193). -/
inductive Msg where
  | answer (kind : ReqKind) (code : AnswerCode) (ref stateCode : Nat) (payload : Payload)
  | attach (ref pos : Nat) (side : Side)
  | hold (ref : Nat)
  | ring (ref station attempt : Nat)
  | drop (ref attempt : Nat)
  | bridge (ref : Nat)
  | divert (ref station : Nat) (reason : DivertReason)
  | disconnect (ref : Nat)
  deriving DecidableEq, Repr

/-- A scan in progress (R22). -/
structure Scan where
  first : Nat
  next : Nat
  left : Nat
  found : Nat
  examined : Nat
  deriving DecidableEq, Repr

/-- A block update in progress (R111); the stations still to update are as many as the codes. -/
structure BlockUpdate where
  first : Nat
  applied : Nat
  next : Nat
  codes : List Nat
  deriving DecidableEq, Repr

/-- Events that wait for the outbound reserve (R194). An expiry is named by its record and its deadline (R146), a sweep step by
its group and the next step time for which it waits (R177). -/
inductive Waiting where
  | expiry (ref : Nat) (d : Deadline)
  | sweep (g due : Nat)
  | release (p : Nat)
  | scan
  | block
  | key (p : Nat)
  deriving DecidableEq, Repr

/-- A console exchange in progress: the poll sent, and what it carried (R199, R200). -/
structure Exchange where
  pos : Nat
  message : Bool
  sync : Bool
  holdKeys : Bool
  deriving DecidableEq, Repr

/-- RESET_N low, the start-up interval, or running (R211, R212). -/
inductive Phase where
  | inReset | starting | running
  deriving DecidableEq, Repr

/-- Everything the spec gives the part, and the queue of commands. -/
structure State where
  phase : Phase
  /-- Time count, 48 bits (R143). -/
  timeCount : Nat
  /-- Call Table (R2). -/
  slots : Tab Slot
  /-- Arrival sequence counter, 32 bits (R30). -/
  arrivalCounter : Nat
  groups : Tab GroupRecord
  classes : Tab ClassEntry
  /-- S (R33). -/
  ageShift : Nat
  /-- L (R36). -/
  bypassLimit : Nat
  /-- K (R159). -/
  recallLimit : Nat
  timers : Timers
  positions : Tab Position
  stations : Tab Station
  hunts : Tab (Option HuntRange)
  /-- Outbound queue, head first (R194). -/
  outbound : List Msg
  /-- Events held back by the reserve, in the order they began to wait (R194). -/
  waiting : List Waiting
  locked : Bool
  discarded : Bool
  scan : Option Scan
  block : Option BlockUpdate
  /-- Positions still to be polled in the present cycle (R197). -/
  toPoll : List Nat
  exchange : Option Exchange
  /-- The status byte of the transaction in progress, as it stood when its first bit was shifted out; none between
  transactions (R184, R185, log 4). -/
  opened : Option Byte
  /-- For each transaction in progress or waiting, in the order of the queue: how many of the commands right ahead of it fall
  after its first bit, inside it. The host sets it as it sets the queue; a transaction with no entry begins after every command
  ahead of it (R184, R185, log 4). -/
  overlaps : List Nat
  /-- The model's record of SDO: what the part sent in the last transaction (log 17). -/
  sdo : List Byte
  /-- The model's record of the console bus: the last poll (log 17). -/
  bus : List Byte
  /-- The moments of the event in progress, oldest first, from which the order of its console messages follows; empty
  between events (R204, log 7). -/
  moments : List Moment
  /-- How many free values have been drawn (log 9). -/
  freeDraws : Nat
  /-- Commands waiting, first in, first out (log 1). -/
  pending : List Instr
  deriving DecidableEq, Repr

/-- The machine stops with no fault: the spec describes no condition that stops the part. -/
inductive Fault where
  deriving DecidableEq, Repr

/-- Why a command has no meaning. -/
inductive Refusal where
  /-- Raised by an arm of `exec` whose command has no meaning yet; safe. No arm raises it. -/
  | notModelled (mnemonic : String)
  deriving DecidableEq, Repr

/-- The hardware-reset state (R211): every table entry at its reset value (`slotReset`, `groupReset`, `classReset`,
`positionReset`, `stationReset`, `huntReset` in Ops.lean), every register at the default of R209, RESET_N still low. -/
def State.reset : State where
  phase := .inReset
  timeCount := 0
  slots := []
  arrivalCounter := 0
  groups := []
  classes := []
  ageShift := 4
  bypassLimit := 3
  recallLimit := 3
  timers := ⟨150, 100, 600, 200, 250, 900, 5⟩
  positions := []
  stations := []
  hunts := []
  outbound := []
  waiting := []
  locked := false
  discarded := false
  scan := none
  block := none
  toPoll := []
  exchange := none
  opened := none
  overlaps := []
  sdo := []
  bus := []
  moments := []
  freeDraws := 0
  pending := []

end Sys2Proof.Machine
end

