-- ==== Sys2Proof/Machine/Ops.lean ====
section
/-! DEFINITION. The named operations over the state: tables, accessors, the outbound queue, the Call Table, loops and
queues. Everything a rule reads or writes goes through these. -/

namespace Sys2Proof.Machine

/-! ## Tables -/

/-- The entry under key `k`; an unlisted entry reads as its hardware-reset value `d k`. -/
def Tab.get {α : Type} (d : Nat → α) (t : Tab α) (k : Nat) : α :=
  match t.find? (fun e => e.1 == k) with
  | some e => e.2
  | none => d k

/-- The table with entry `k` set to `v`, in canonical form: writing the reset value removes the entry. -/
def Tab.put {α : Type} [DecidableEq α] (d : Nat → α) (t : Tab α) (k : Nat) (v : α) : Tab α :=
  t.filter (fun e => e.1 < k) ++ (if v = d k then [] else [(k, v)]) ++ t.filter (fun e => k < e.1)

/-- The table with `f` applied to every entry; `f` must leave reset values as they are. -/
def Tab.mapVals {α : Type} [DecidableEq α] (d : Nat → α) (f : α → α) (t : Tab α) : Tab α :=
  t.foldr (fun e acc => Tab.put d acc e.1 (f e.2)) []

/-- The canonical form: keys strictly rising, no entry equal to its reset value. -/
abbrev Tab.wf {α : Type} [DecidableEq α] (d : Nat → α) (t : Tab α) : Prop :=
  t.Pairwise (fun a b => a.1 < b.1) ∧ ∀ e ∈ t, e.2 ≠ d e.1

/-! ## Reset values of the table entries -/

/-- A slot after hardware reset: FREE, generation 0 (R2). -/
def slotReset (_ : Nat) : Slot := ⟨0, none⟩

/-- A group record after hardware reset (R27, R52, R183). -/
def groupReset (_ : Nat) : GroupRecord where
  offerMode := .pull
  alarmDepth := 8
  policy := .select
  overflow := none
  night := none
  sweepPolicy := .staffFirst
  mode := .night
  sweep := .idle
  queue := []
  pairingDue := false

/-- The class table after hardware reset (R209). -/
def classReset : Nat → ClassEntry
  | 0 => ⟨3000, 0, 0⟩
  | 1 => ⟨600, 20, 1200⟩
  | 2 => ⟨200, 12, 900⟩
  | 3 => ⟨100, 40, 1800⟩
  | _ => ⟨0, 16, 1800⟩

/-- The console link state after hardware reset (R198), put into a position record. -/
def resetLink (q : Position) : Position :=
  { q with missed := 3, present := false, outSeq := false, sync := true, inFlight := false, lastIn := false,
           buffer := [], intake := [] }

/-- A position record after hardware reset (R82, R198, R209). -/
def positionReset (_ : Nat) : Position where
  enabled := true
  group := 0
  avail := .signedOut
  loops := []
  talkLoop := none
  offer := none
  dialled := none
  idleSince := 0
  releaseList := []
  notice := none
  missed := 3
  present := false
  outSeq := false
  sync := true
  inFlight := false
  lastIn := false
  buffer := []
  intake := []

/-- A station entry after hardware reset (R122). -/
def stationReset (_ : Nat) : Station := ⟨.out, false, true, [], none⟩

/-- A hunt range after hardware reset: unconfigured (R122). -/
def huntReset (_ : Nat) : Option HuntRange := none

/-- An empty loop (R54). -/
def loopEmpty (_ : Nat) : Option Nat := none

/-! ## Accessors -/

/-- Slot `n` of the Call Table. -/
def State.slot (s : State) (n : Nat) : Slot := Tab.get slotReset s.slots n
/-- Group record `g`. -/
def State.group (s : State) (g : Nat) : GroupRecord := Tab.get groupReset s.groups g
/-- Class table entry `c`. -/
def State.cls (s : State) (c : Nat) : ClassEntry := Tab.get classReset s.classes c
/-- Position record `p`. -/
def State.pos (s : State) (p : Nat) : Position := Tab.get positionReset s.positions p
/-- Station entry `st`. -/
def State.station (s : State) (st : Nat) : Station := Tab.get stationReset s.stations st
/-- Hunt range `h`. -/
def State.huntRange (s : State) (h : Nat) : Option HuntRange := Tab.get huntReset s.hunts h
/-- The call in loop `l` of a position. -/
def Position.loopAt (q : Position) (l : Nat) : Option Nat := Tab.get loopEmpty q.loops l

/-- Write slot `n`. -/
def State.setSlot (s : State) (n : Nat) (v : Slot) : State := { s with slots := Tab.put slotReset s.slots n v }
/-- Change group record `g`. -/
def State.modGroup (s : State) (g : Nat) (f : GroupRecord → GroupRecord) : State :=
  { s with groups := Tab.put groupReset s.groups g (f (s.group g)) }
/-- Write class table entry `c`. -/
def State.setCls (s : State) (c : Nat) (v : ClassEntry) : State := { s with classes := Tab.put classReset s.classes c v }
/-- Change position record `p`. -/
def State.modPos (s : State) (p : Nat) (f : Position → Position) : State :=
  { s with positions := Tab.put positionReset s.positions p (f (s.pos p)) }
/-- Change station entry `st`. -/
def State.modStation (s : State) (st : Nat) (f : Station → Station) : State :=
  { s with stations := Tab.put stationReset s.stations st (f (s.station st)) }
/-- Write hunt range `h`. -/
def State.setHunt (s : State) (h : Nat) (v : Option HuntRange) : State :=
  { s with hunts := Tab.put huntReset s.hunts h v }
/-- Put a call into loop `l`, or empty it. -/
def Position.setLoop (q : Position) (l : Nat) (r : Option Nat) : Position :=
  { q with loops := Tab.put loopEmpty q.loops l r }

/-- The numbers of the positions. -/
def positionNumbers : List Nat := [1, 2, 3, 4, 5, 6, 7, 8]
/-- The numbers of the groups. -/
def groupNumbers : List Nat := [0, 1, 2, 3]
/-- The numbers of the loops. -/
def loopNumbers : List Nat := [1, 2, 3, 4, 5, 6]

/-- Change every position record; `f` sees the position's number. -/
def State.mapPositions (s : State) (f : Nat → Position → Position) : State :=
  { s with positions :=
      positionNumbers.foldl (fun t p => Tab.put positionReset t p (f p (Tab.get positionReset t p))) s.positions }

/-! ## Call records -/

/-- The slot that a reference names (R3). -/
def slotOf (ref : Nat) : Nat := ref % 256
/-- The generation field of a reference (R3). -/
def genOf (ref : Nat) : Nat := ref / 256

/-- The live record in the slot that a reference names. -/
def State.call (s : State) (ref : Nat) : Option CallRecord := (s.slot (slotOf ref)).call

/-- Change the live record that a reference names. -/
def State.modCall (s : State) (ref : Nat) (f : CallRecord → CallRecord) : State :=
  s.setSlot (slotOf ref) { s.slot (slotOf ref) with call := (s.call ref).map f }

/-- A slot with its live record changed. -/
def Slot.mapCall (f : CallRecord → CallRecord) (x : Slot) : Slot := { x with call := x.call.map f }

/-- Change every live record. -/
def State.mapCalls (s : State) (f : CallRecord → CallRecord) : State :=
  { s with slots := Tab.mapVals slotReset (Slot.mapCall f) s.slots }

/-- The live records, by slot. -/
def State.calls (s : State) : List CallRecord := (List.range Config.slotCount).filterMap (fun n => (s.slot n).call)

/-- Retirement: the slot is FREE and keeps its generation (R11). -/
def retire (ref : Nat) (s : State) : State :=
  s.setSlot (slotOf ref) { s.slot (slotOf ref) with call := none }

/-- What a reference resolves to (R3). -/
inductive Resolved where
  | unknown
  | stale
  | live (c : CallRecord)
  deriving DecidableEq, Repr

/-- Resolution of a reference; `report` for RING_RESULT and DIVERT_RESULT (R3). -/
def resolve (report : Bool) (ref : Nat) (s : State) : Resolved :=
  if genOf ref = 0 then .unknown
  else if genOf ref ≠ (s.slot (slotOf ref)).gen then .stale
  else match (s.slot (slotOf ref)).call with
    | none => if report then .stale else .unknown
    | some c => .live c

/-- Lookup by origin (R5). -/
def findOrigin (kind : OriginKind) (num : Nat) (s : State) : Option CallRecord :=
  s.calls.find? (fun c => c.originKind = kind ∧ c.originNum = num)

/-- The lowest-numbered FREE slot (R4). -/
def freeSlot (s : State) : Option Nat :=
  (List.range Config.slotCount).find? (fun n => (s.slot n).call.isNone)

/-- The generation after `gen` (R4). -/
def nextGen (gen : Nat) : Nat := if gen = 255 then 1 else gen + 1

/-- State code of a record (R7). -/
def CallState.code : CallState → Nat
  | .queued => 1
  | .offered => 2
  | .talking => 3
  | .held => 4
  | .extending => 5
  | .ringingAway => 6
  | .camped => 7
  | .recalling => 8
  | .diverting => 9

/-- State code of the record that a reference names; 0 for a FREE slot (R7). -/
def stateCode (ref : Nat) (s : State) : Nat :=
  match s.call ref with
  | some c => c.state.code
  | none => 0

/-! ## Time and deadlines -/

/-- Age of a recorded time, saturating at 65,535 (Conventions, R33). -/
def ageOf (now t : Nat) : Nat := min 65535 (now - t)

/-- A deadline of a kind that starts now (R145). -/
def State.deadlineNow (s : State) (kind : DeadlineKind) (duration : Nat) : Option Deadline :=
  some ⟨kind, s.timeCount, duration⟩

/-- A deadline has fallen due (R146). -/
def Deadline.due (d : Deadline) (now : Nat) : Bool := d.start + d.duration ≤ now

/-! ## The outbound queue and notices -/

/-- Place a message at the tail of the outbound queue (R194). -/
def State.emit (s : State) (m : Msg) : State := { s with outbound := s.outbound ++ [m] }

/-- Free entries of the outbound queue (R194). -/
def State.free (s : State) : Nat := Config.outboundCapacity - s.outbound.length

/-- Admission finds the reserve (R194). -/
def State.reserveFree (s : State) : Bool := Config.reserve ≤ s.free

/-- Carry out an effect and place the answer, which may read the state after it, ahead of the orders of the effect
(R191). -/
def answerFirst (s : State) (effect : State → State) (answer : State → Msg) : State :=
  let t := effect { s with outbound := [] }
  { t with outbound := s.outbound ++ answer t :: t.outbound }

/-- Set a position's notice (R80). -/
def State.setNotice (s : State) (p : Nat) (n : Option Notice) : State := s.modPos p (fun q => { q with notice := n })

/-! ## Groups and queues -/

/-- A pairing is called for in an OFFER group (R42). -/
def markPairing (g : Nat) (s : State) : State :=
  s.modGroup g (fun r => if r.offerMode = .offer then { r with pairingDue := true } else r)

/-- The records of the calls in a group's queue, head first. -/
def queueCalls (g : Nat) (s : State) : List CallRecord := (s.group g).queue.filterMap s.call

/-- A night-bound call stands in the group's queue (R170). -/
def hasNightBound (g : Nat) (s : State) : Bool := (queueCalls g s).any (fun c => c.nightBound)

/-- The sweep returns to IDLE when no night-bound call remains (R170, R179). -/
def settleSweep (g : Nat) (s : State) : State :=
  if hasNightBound g s then s else s.modGroup g (fun r => { r with sweep := .idle })

/-- Remove a call from its group's queue (R29). -/
def dequeue (g ref : Nat) (s : State) : State :=
  s.modGroup g (fun r => { r with queue := r.queue.filter (fun x => x ≠ ref) })

/-- A position of group `g`: enabled and configured for it (R27). -/
def inGroup (g p : Nat) (s : State) : Bool := (s.pos p).enabled && (s.pos p).group == g

/-- Signed in: READY or BREAK. -/
def Availability.signedIn : Availability → Bool
  | .signedOut => false
  | .ready | .onBreak => true

/-- Some position of the group is READY or BREAK (R170). -/
def staffed (g : Nat) (s : State) : Bool :=
  positionNumbers.any (fun p => inGroup g p s && (s.pos p).avail.signedIn)

/-! ## Loops -/

/-- The empty loops of a position, lowest first (R54). -/
def Position.emptyLoops (q : Position) : List Nat := loopNumbers.filter (fun l => (q.loopAt l).isNone)

/-- The free loops: a pending offer reserves the lowest empty one (R54). -/
def Position.freeLoops (q : Position) : List Nat := if q.offer.isSome then q.emptyLoops.drop 1 else q.emptyLoops

/-- The loops that hold a call, lowest first. -/
def Position.heldLoops (q : Position) : List Nat := loopNumbers.filter (fun l => (q.loopAt l).isSome)

/-- The talk call of a position (R54). -/
def talkCall (p : Nat) (s : State) : Option CallRecord :=
  match (s.pos p).talkLoop with
  | none => none
  | some l =>
    match (s.pos p).loopAt l with
    | none => none
    | some r => s.call r

/-- Empty loop `l` of a position; a talk call there leaves the talk path (R54). -/
def Position.clearLoop (q : Position) (l : Nat) : Position :=
  { q.setLoop l none with talkLoop := if q.talkLoop = some l then none else q.talkLoop }

/-- A call leaves the loop it occupies: the loop and, for the talk call, the talk path are emptied, and the loop field
becomes absent; the home position stays (R6, R54). -/
def leaveLoop (ref : Nat) (s : State) : State :=
  match s.call ref with
  | none => s
  | some c =>
    match c.home, c.loop with
    | some p, some l => (s.modPos p (fun q => q.clearLoop l)).modCall ref (fun c => { c with loop := none })
    | _, _ => s

/-- The lowest-numbered loop of a position that holds a RECALLING call, and the call (R71). -/
def recallingLoop (p : Nat) (s : State) : Option (Nat × Nat) :=
  loopNumbers.findSome? (fun l =>
    match (s.pos p).loopAt l with
    | none => none
    | some r => if (s.call r).any (fun c => c.state = .recalling) then some (l, r) else none)

/-- A position is offerable for group `g` (R40). -/
def offerable (g p : Nat) (s : State) : Bool :=
  inGroup g p s && (s.pos p).avail == .ready && (s.pos p).talkLoop.isNone && (s.pos p).offer.isNone
    && !(s.pos p).emptyLoops.isEmpty

/-! ## The camp-on pool -/

/-- Calls in a station's camp list and camp ring (R126). -/
def Station.occupancy (e : Station) : Nat := e.campList.length + if e.ring.isSome then 1 else 0

/-- Entries of the camp-on pool in use (R126). -/
def poolOccupancy (s : State) : Nat := (s.stations.map (fun e => e.2.occupancy)).sum

/-- The station and the pool have room (R126). -/
def hasRoom (st : Nat) (s : State) : Bool :=
  (s.station st).occupancy < Config.stationRoom && poolOccupancy s < Config.poolSize

/-! ## The best of a list -/

/-- The element that `better` prefers to every other; the earlier one where neither is better. -/
def bestBy {α : Type} (better : α → α → Bool) : List α → Option α
  | [] => none
  | a :: rest =>
    match bestBy better rest with
    | none => some a
    | some b => if better b a then some b else some a

end Sys2Proof.Machine
end

