-- ==== Sys2Proof/Machine/Operands.lean ====
section
/-! DEFINITION. The operand forms: what a number carried on either link means to the rule that owns it, or none where
the owner refuses it. -/

namespace Sys2Proof.Machine

/-- Origin kind: 0 TRUNK, 1 STATION (R8, R196). -/
def readOriginKind : Nat → Option OriginKind
  | 0 => some .trunk
  | 1 => some .station
  | _ => none

/-- A station number that must be present (R110). -/
def isStationNumber (n : Nat) : Bool := n ≤ Config.maxStation

/-- The value checks of PRESENT (R8). -/
def presentValuesOk (kind number cls grp : Nat) (tag : List Nat) : Bool :=
  (readOriginKind kind).isSome && isStationNumber number && cls ≤ 7 && grp ≤ 3 && tag.length ≤ 12
    && tag.all (fun ch => 32 ≤ ch && ch ≤ 126)

/-- The tag of a record: absent when PRESENT gives no character (R6). -/
def readTag (tag : List Nat) : Option (List Nat) := if tag.isEmpty then none else some tag

/-- Selector of a TAKE (R17, R196). -/
inductive TakeSelector where
  | byReference | byOrigin
  deriving DecidableEq, Repr

/-- Condition of a TAKE (R17, R196). -/
inductive TakeCondition where
  | ifWaiting | ifUnattended | always
  deriving DecidableEq, Repr

/-- 0 BY_REFERENCE, 1 BY_ORIGIN. -/
def readSelector : Nat → Option TakeSelector
  | 0 => some .byReference
  | 1 => some .byOrigin
  | _ => none

/-- 0 IF_WAITING, 1 IF_UNATTENDED, 2 ALWAYS. -/
def readCondition : Nat → Option TakeCondition
  | 0 => some .ifWaiting
  | 1 => some .ifUnattended
  | 2 => some .always
  | _ => none

/-- The states in which a TAKE's condition holds (R18). -/
def TakeCondition.holds : TakeCondition → CallState → Bool
  | .ifWaiting, .queued | .ifWaiting, .offered => true
  | .ifWaiting, _ => false
  | .ifUnattended, .queued | .ifUnattended, .offered | .ifUnattended, .held | .ifUnattended, .recalling
  | .ifUnattended, .camped | .ifUnattended, .ringingAway => true
  | .ifUnattended, _ => false
  | .always, .diverting => false
  | .always, _ => true

/-- Outcomes of a RING_RESULT (R91, R196). -/
inductive RingOutcome where
  | ringing | answered | busy | refused | gone
  deriving DecidableEq, Repr

/-- 1 RINGING, 2 ANSWERED, 3 BUSY, 4 REFUSED, 5 GONE. -/
def readOutcome : Nat → Option RingOutcome
  | 1 => some .ringing
  | 2 => some .answered
  | 3 => some .busy
  | 4 => some .refused
  | 5 => some .gone
  | _ => none

/-- State codes of a station (R108). -/
def readStationState : Nat → Option StationState
  | 0 => some .idle
  | 1 => some .busy
  | 2 => some .ringing
  | 3 => some .dnd
  | 4 => some .out
  | _ => none

/-- The code of a station state (R108). -/
def StationState.code : StationState → Nat
  | .idle => 0
  | .busy => 1
  | .ringing => 2
  | .dnd => 3
  | .out => 4

/-- Bit `i` of a flags byte (R196). -/
def flagBit (n i : Nat) : Bool := n / 2 ^ i % 2 == 1

/-- An optional station field: FFFFh is absent (R207). -/
def readOptStation (n : Nat) : Option Nat := if n = Config.absentStation then none else some n

/-- A station field of CONFIGURE that is not refused (R208). -/
def optStationOk (n : Nat) : Bool := n ≤ Config.maxStation || n == Config.absentStation

/-- 0 PULL, 1 OFFER (R207). -/
def readOfferMode : Nat → Option OfferMode
  | 0 => some .pull
  | 1 => some .offer
  | _ => none

/-- 0 SCREENED, 1 BLIND, 2 SELECT (R207). -/
def readPolicy : Nat → Option TransferPolicy
  | 0 => some .screened
  | 1 => some .blind
  | 2 => some .select
  | _ => none

/-- 0 STAFF_FIRST, 1 SWEEP_FIRST (R207). -/
def readSweepPolicy : Nat → Option SweepPolicy
  | 0 => some .staffFirst
  | 1 => some .sweepFirst
  | _ => none

/-- 0 or 1 (R207: enabled, configured). -/
def readFlag : Nat → Option Bool
  | 0 => some false
  | 1 => some true
  | _ => none

/-- 0 UP, 1 DOWN (R207). -/
def readDir : Nat → Option HuntDir
  | 0 => some .up
  | 1 => some .down
  | _ => none

/-- 0 LINEAR, 1 CIRCULAR (R207). -/
def readHuntMode : Nat → Option HuntMode
  | 0 => some .linear
  | 1 => some .circular
  | _ => none

/-- First and last station agree with the direction (R115). -/
def HuntDir.agrees : HuntDir → Nat → Nat → Bool
  | .up, first, last => first ≤ last
  | .down, first, last => last ≤ first

/-- Clamping (R209): a value below the range becomes its lowest, a value above it its highest. -/
def clamp (lo hi n : Nat) : Nat := if n < lo then lo else if hi < n then hi else n

/-- A field is out of its range, so it is clamped (R209). -/
def outside (lo hi n : Nat) : Bool := n < lo || hi < n

end Sys2Proof.Machine
end

