-- ==== Sys2Proof/Machine/Flags.lean ====
section
/-! DEFINITION. What the part derives from its state: the status byte and ATTN_N, the waiting count and group lamp, the
image of a position and the moments of an event, and the record image. -/

namespace Sys2Proof.Machine

/-! ## The control link's condition (R185) -/

/-- READY (R185, R188). It is clear until a block update has ended (R111, R188), although R112 has a later request update a
station before then (DESIGN CHOICE, log 24). -/
def State.isReady (s : State) : Bool :=
  s.phase == .running && s.reserveFree && s.scan.isNone && s.block.isNone

/-- ATTN; ATTN_N is low exactly while it is set (R185). -/
def State.attn (s : State) : Bool := !s.outbound.isEmpty

/-- The weight of a bit that is set. -/
def bit (b : Bool) (weight : Nat) : Nat := if b then weight else 0

/-- The status byte (R185). -/
def statusByte (s : State) : Byte :=
  BitVec.ofNat 8 (bit s.isReady 128 + bit s.attn 64 + bit s.locked 32 + bit (s.phase == .starting) 16 + bit s.discarded 8)

/-! ## Waiting count and group lamp (R35, R50) -/

/-- A call is selectable when it is QUEUED and not night-bound (R35). -/
def CallRecord.selectable (c : CallRecord) : Bool := c.state == .queued && !c.nightBound

/-- The selectable calls of a group's queue, head first (R35). -/
def selectableCalls (g : Nat) (s : State) : List CallRecord := (queueCalls g s).filter CallRecord.selectable

/-- The waiting count (R50). -/
def waitingCount (g : Nat) (s : State) : Nat := (selectableCalls g s).length

/-- The group lamp (R50). -/
def groupLamp (g : Nat) (s : State) : GroupLamp :=
  if waitingCount g s = 0 then .dark
  else if (s.group g).alarmDepth ≤ waitingCount g s || (selectableCalls g s).any (fun c => c.warning) then .flash
  else .lit

/-- The GROUP message of a group as it stands (R51). -/
def groupMsg (g : Nat) (s : State) : ConMsg := .group g (groupLamp g s) (waitingCount g s)

/-! ## The image of a position (R77 to R79) -/

/-- The lamp of a loop by the call in it (R77). -/
def callLamp (c : CallRecord) : Lamp :=
  match c.state with
  | .talking => .lit
  | .held => .slow
  | .recalling => .fast
  | .extending =>
    match c.progress with
    | some .answered => .double
    | some .busy => .stutter
    | _ => .wink
  | _ => .dark

/-- Loop lamp `l` of position `p` (R77). -/
def loopLamp (p l : Nat) (s : State) : Lamp :=
  match (s.pos p).loopAt l with
  | none => .dark
  | some r => match s.call r with
    | none => .dark
    | some c => callLamp c

/-- The OFFER lamp (R78). -/
def offerLamp (p : Nat) (s : State) : Lamp := if (s.pos p).offer.isSome then .lit else .dark

/-- The waiting age on the display, in seconds (R79). -/
def ageSeconds (now enqueued : Nat) : Nat := ageOf now enqueued / 10

/-- The call panel (R79). -/
def panelOf (p : Nat) (s : State) : Option Panel :=
  match (s.pos p).talkLoop, talkCall p s with
  | some l, some c =>
    some ⟨l, c.originKind, c.originNum, c.tag, c.presentedClass, c.state == .extending,
      ageSeconds s.timeCount c.enqueueTime, c.curDest, c.prevDest, c.progress, c.recallCount⟩
  | _, _ => none

/-- The display (R79). -/
def displayOf (p : Nat) (s : State) : Display := ⟨panelOf p s, (s.pos p).dialled, (s.pos p).notice⟩

/-- The lamps of a position as messages: loops 1 to 6, OFFER, availability (R77, R78, R205). -/
def lampMsgs (p : Nat) (s : State) : List ConMsg :=
  loopNumbers.map (fun l => .lamp l (loopLamp p l s)) ++ [.lamp 7 (offerLamp p s), .availability (s.pos p).avail]

/-- The image of a position as messages: its lamps, then its display (R77 to R79). -/
def positionImage (p : Nat) (s : State) : List ConMsg := lampMsgs p s ++ [.display (displayOf p s)]

/-- The whole image: the ten messages of a full refresh (R205). -/
def wholeImage (p : Nat) (s : State) : List ConMsg := positionImage p s ++ [groupMsg (s.pos p).group s]

/-- The messages for what an event changed in the image of a position, in the order of the image (R81). -/
def imageChanges (before after : State) (p : Nat) : List ConMsg :=
  (positionImage p after).filter (fun m => !(positionImage p before).contains m)

/-! ## What the event in progress produces (R81, R204) -/

/-- A moment of the event at position `p`: the image as the event has changed it so far, and a tone produced next. -/
def State.moment (s : State) (p : Nat) (t : Option Tone) : State :=
  { s with moments := s.moments ++ [⟨p, positionImage p s, t⟩] }

/-- What the event has changed at position `p` so far is produced ahead of what it changes next (R204). -/
def State.note (s : State) (p : Nat) : State := s.moment p none

/-- A tone of the event at position `p`, after what the event has changed there so far (R80, R204). -/
def State.tone (s : State) (p : Nat) (t : Tone) : State := s.moment p (some t)

/-! ## The record image (R21) -/

/-- Time remaining to a deadline, in tenths (R21). -/
def timeRemaining (d : Deadline) (now : Nat) : Nat := min 65535 (d.start + d.duration - now)

/-- The record image at the present time (R21). -/
def imageOf (c : CallRecord) (now : Nat) : Image where
  ref := c.ref
  state := c.state
  originKind := c.originKind
  originNum := c.originNum
  presentedClass := c.presentedClass
  queueClass := c.queueClass
  group := c.group
  warning := c.warning
  nightBound := c.nightBound
  divertFailed := c.divertFailed
  fromCamp := c.fromCamp
  home := c.home
  loop := c.loop
  talkSide := c.talkSide
  mode := c.mode
  curDest := c.curDest
  prevDest := c.prevDest
  progress := c.progress
  attempt := c.attempt
  bypass := c.bypass
  recallCount := c.recallCount
  arrivalSeq := c.arrivalSeq
  waitingAge := ageOf now c.enqueueTime
  campAge := c.campStart.map (ageOf now)
  deadline := c.deadline.map (fun d => (d.kind, timeRemaining d now))

end Sys2Proof.Machine
end

