-- ==== Sys2Proof/Machine/Queue.lean ====
section
/-! DEFINITION. The Queue Distributor: arrival sequences, enqueues, queue deadlines, the priority score, selection
(chapter 2; R153 for the deadlines). -/

namespace Sys2Proof.Machine

/-! ## Enqueues -/

/-- Renumbering (R30): every live record but `ref` gets its rank among them as its arrival sequence, and the counter
becomes their number. -/
def renumber (ref : Nat) (s : State) : State :=
  let others := s.calls.filter (fun c => c.ref ≠ ref)
  { s.mapCalls (fun c =>
      if c.ref = ref then c
      else { c with arrivalSeq := (others.filter (fun d => d.arrivalSeq < c.arrivalSeq)).length + 1 })
    with arrivalCounter := others.length }

/-- The arrival sequence counter is ready to be increased: renumbered where it stands at its maximum (R30). -/
def makeSequence (ref : Nat) (s : State) : State :=
  if Config.maxSequence ≤ s.arrivalCounter then renumber ref s else s

/-- The record's part of a fresh enqueue: new enqueue time and arrival sequence, bypass count 0, warning clear
(R30, R31). -/
def freshStamp (ref : Nat) (s : State) : State :=
  let t := makeSequence ref s
  { t with arrivalCounter := t.arrivalCounter + 1 }.modCall ref
    (fun c => { c with enqueueTime := s.timeCount, arrivalSeq := t.arrivalCounter + 1, bypass := 0, warning := false })

/-- The record as it becomes QUEUED, with its queue deadline (R153). Divert-failed set with warning clear has no row in
R153 and is in no run: no deadline (DESIGN CHOICE, log 11). -/
def withQueueDeadline (s : State) (c : CallRecord) : CallRecord :=
  let o := (s.cls c.queueClass).overflow
  if c.divertFailed then { c with state := .queued, deadline := none }
  else if c.warning then { c with state := .queued, deadline := s.deadlineNow .warning s.timers.warning }
  else if o = 0 then { c with state := .queued, deadline := none }
  else if s.timeCount < c.enqueueTime + o then
    { c with state := .queued, deadline := some ⟨.queue, c.enqueueTime, o⟩ }
  else { c with state := .queued, warning := true, deadline := s.deadlineNow .warning s.timers.warning }

/-- The call becomes QUEUED at the tail of its group's queue (R31). -/
def enqueueTail (ref : Nat) (s : State) : State :=
  match s.call ref with
  | none => s
  | some c =>
    markPairing c.group
      ((s.modCall ref (withQueueDeadline s)).modGroup c.group (fun r => { r with queue := r.queue ++ [ref] }))

/-- The call that a reference names has a higher arrival sequence. -/
def seqAbove (s : State) (seq ref : Nat) : Bool := (s.call ref).any (fun c => seq < c.arrivalSeq)

/-- A reference placed immediately ahead of the first call of higher sequence, or at the tail (R32). -/
def insertBySeq (s : State) (seq ref : Nat) (queue : List Nat) : List Nat :=
  queue.takeWhile (fun r => !seqAbove s seq r) ++ ref :: queue.dropWhile (fun r => !seqAbove s seq r)

/-- A reinsertion (R32): enqueue time, arrival sequence and bypass count are kept. -/
def reinsert (ref : Nat) (s : State) : State :=
  match s.call ref with
  | none => s
  | some c =>
    markPairing c.group
      ((s.modCall ref (withQueueDeadline s)).modGroup c.group
        (fun r => { r with queue := insertBySeq s c.arrivalSeq ref r.queue }))

/-! ## The priority score (R33) -/

/-- The score from base, weight, age shift and age. -/
def score (base weight shift age : Nat) : Nat := min 4095 (base + age * weight / 2 ^ shift)

/-- The score of a call at the present time, by its queue class (R33, R34). -/
def callScore (s : State) (c : CallRecord) : Nat :=
  score (s.cls c.queueClass).base (s.cls c.queueClass).weight s.ageShift (ageOf s.timeCount c.enqueueTime)

/-! ## Selection (R35 to R38) -/

/-- The forced call: of the selectable calls at the bypass limit, the one of lowest arrival sequence; none with L = 0
(R36). -/
def forcedCall (g : Nat) (s : State) : Option CallRecord :=
  bestBy (fun a b => a.arrivalSeq < b.arrivalSeq)
    ((selectableCalls g s).filter (fun c => 1 ≤ s.bypassLimit && c.bypass == s.bypassLimit))

/-- `a` goes before `b` by score, then by lower arrival sequence (R37). -/
def scoresBefore (s : State) (a b : CallRecord) : Bool :=
  callScore s b < callScore s a || (callScore s a == callScore s b && a.arrivalSeq < b.arrivalSeq)

/-- The call that a selection chooses (R36, R37). -/
def selectCall (g : Nat) (s : State) : Option CallRecord :=
  match forcedCall g s with
  | some c => some c
  | none => bestBy (scoresBefore s) (selectableCalls g s)

/-- The bypass update of one record (R38). -/
def raiseBypass (limit : Nat) (queue : List Nat) (chosen : CallRecord) (c : CallRecord) : CallRecord :=
  if queue.contains c.ref && c.selectable && c.arrivalSeq < chosen.arrivalSeq && c.bypass < limit then
    { c with bypass := c.bypass + 1 }
  else c

/-- The chosen call leaves the queue, and the bypass update is applied (R35, R38). -/
def takeChosen (g : Nat) (chosen : CallRecord) (s : State) : State :=
  dequeue g chosen.ref (s.mapCalls (raiseBypass s.bypassLimit (s.group g).queue chosen))

end Sys2Proof.Machine
end

