-- ==== Sys2Proof/Machine/Supervision.lean ====
section
/-! DEFINITION. Diverts, recalls and their routing (chapter 7), camp-on joins and rings (chapter 6): the shared
operations on call records that leave a place. -/

namespace Sys2Proof.Machine

/-! ## Diverting (R148) -/

/-- A divert may be made: the station is present and divert-failed is clear. -/
def divertStation (station : Option Nat) (c : CallRecord) : Option Nat := if c.divertFailed then none else station

/-- The record's part of a divert, and its order (R148). -/
def makeDivert (ref station : Nat) (reason : DivertReason) (s : State) : State :=
  (s.modCall ref (fun c =>
    { c with state := .diverting, deadline := none, nightBound := false, loop := none, talkSide := none,
             progress := none, fromCamp := false })).emit (.divert ref station reason)

/-- A divert of a QUEUED call: it leaves its queue first, and the sweep settles (R148, R179). -/
def divertQueued (g ref station : Nat) (reason : DivertReason) (s : State) : State :=
  makeDivert ref station reason (settleSweep g (dequeue g ref s))

/-! ## Stage 2 (R161) -/

/-- The recall group: the configured group of the home position (R158). Every recalled call has one; without one the
group stays. -/
def recallGroup (s : State) (c : CallRecord) : Nat :=
  match c.home with
  | some p => (s.pos p).group
  | none => c.group

/-- The night station that takes a call which arrives in group `g` (R10, R161). -/
def nightTakes (g : Nat) (c : CallRecord) (s : State) : Option Nat :=
  if (s.group g).mode = .night then divertStation (s.group g).night c else none

/-- A call with its stamp is diverted with reason NIGHT or queued at the tail (R10, R161). -/
def placeFresh (ref : Nat) (s : State) : State :=
  match s.call ref with
  | none => s
  | some c =>
    match nightTakes c.group c s with
    | some st => makeDivert ref st .night s
    | none => enqueueTail ref s

/-- The stage-2 requeue of a call that is on no loop (R161). -/
def stage2 (ref : Nat) (s : State) : State :=
  placeFresh ref
    (freshStamp ref (s.modCall ref (fun c => { c with queueClass := 1, group := recallGroup s c, loop := none })))

/-! ## Recall (R158 to R163) -/

/-- The record becomes RECALLING in loop `l` of position `p`, with a NOTICE tone (R162, R163). -/
def landRecall (ref p l : Nat) (s : State) : State :=
  ((s.modPos p (fun q => q.setLoop l (some ref))).modCall ref (fun c =>
    { c with state := .recalling, loop := some l, deadline := s.deadlineNow .recallRing s.timers.recallRing })).tone p .notice

/-- The loop of its home position that a recalled call on no loop lands on (R163). -/
def recallLanding (s : State) (c : CallRecord) : Option (Nat × Nat) :=
  match c.home with
  | none => none
  | some p => if (s.pos p).avail.signedIn then (s.pos p).freeLoops.head?.map (fun l => (p, l)) else none

/-- Stage 1 or stage 2 of a call that is on no loop (R163). -/
def routeRecall (ref : Nat) (s : State) : State :=
  match s.call ref with
  | none => s
  | some c =>
    match recallLanding s c with
    | some (p, l) => landRecall ref p l s
    | none => stage2 ref s

/-- Recall in place of a HELD call (R162). -/
def recallInPlace (ref : Nat) (s : State) : State :=
  match s.call ref with
  | none => s
  | some c =>
    (s.modCall ref (fun c =>
      { c with state := .recalling, deadline := s.deadlineNow .recallRing s.timers.recallRing })).tone (c.home.getD 0) .notice

/-- The recall count after a recall (R159). -/
def stepRecallCount (limit count : Nat) : Nat := if count < limit then count + 1 else count

/-- The station of a RECALL_LIMIT divert: this recall brings the count to the limit, the group has an overflow station
and divert-failed is clear (R159). -/
def recallDiverts (s : State) (g : Nat) (c : CallRecord) : Option Nat :=
  if c.recallCount + 1 = s.recallLimit then divertStation (s.group g).overflow c else none

/-- The record's steps 1 to 3 of a recall (R158, R159). -/
def recallRecord (s : State) (c : CallRecord) : CallRecord :=
  { c with deadline := none, progress := none, talkSide := none, fromCamp := false, group := recallGroup s c,
           recallCount := stepRecallCount s.recallLimit c.recallCount }

/-- A recall (R158): the record's steps, then a divert at the limit, or the routing. A HELD call still on its loop is
recalled in place. -/
def takeRecall (ref : Nat) (s : State) : State :=
  match s.call ref with
  | none => s
  | some c =>
    let t := s.modCall ref (recallRecord s)
    match recallDiverts s (recallGroup s c) c with
    | some st => makeDivert ref st .recallLimit (leaveLoop ref t)
    | none => if c.state = .held ∧ c.loop.isSome then recallInPlace ref t else routeRecall ref t

/-! ## Camp-on (R128, R132, R134, R135) -/

/-- The station of a call in camp-on or being extended; every such call has one. -/
def CallRecord.dest (c : CallRecord) : Nat := c.curDest.getD 0

/-- A camp join at the tail of the list of the current destination (R128). -/
def campJoin (ref : Nat) (s : State) : State :=
  match s.call ref with
  | none => s
  | some c =>
    (s.modStation c.dest (fun e => { e with campList := e.campList ++ [ref] })).modCall ref (fun c =>
      { c with state := .camped, progress := none, talkSide := none, campStart := some s.timeCount,
               deadline := s.deadlineNow .camp s.timers.camp })

/-- The next attempt number (R87, R132). -/
def nextAttempt (n : Nat) : Nat := (n + 1) % 256

/-- A station's list without its head, which becomes the camp ring (R132). -/
def Station.startRing (e : Station) : Station :=
  match e.campList with
  | [] => e
  | head :: rest => { e with campList := rest, ring := some head }

/-- The camp ring's call back at the head of the list (R134). -/
def Station.ringToList (e : Station) : Station :=
  match e.ring with
  | none => e
  | some r => { e with campList := r :: e.campList, ring := none }

/-- A camp ring at a station whose list is not empty and which has none (R132). -/
def startCampRing (st : Nat) (s : State) : State :=
  match (s.station st).campList.head? with
  | none => s
  | some ref =>
    match s.call ref with
    | none => s.modStation st Station.startRing
    | some c =>
      ((s.modStation st Station.startRing).modCall ref (fun c =>
        { c with state := .ringingAway, fromCamp := true, progress := some .pending, attempt := nextAttempt c.attempt,
                 deadline := s.deadlineNow .noAnswer s.timers.noAnswer })).emit (.ring ref st (nextAttempt c.attempt))

/-- The call leaves camp-on by a recall: its camp start becomes absent (R127). -/
def leaveCampOn (ref : Nat) (s : State) : State :=
  takeRecall ref (s.modCall ref (fun c => { c with campStart := none, deadline := none }))

/-- The station's camp ring is cleared (R133, R135). -/
def clearRing (st : Nat) (s : State) : State := s.modStation st (fun e => { e with ring := none })

/-- A camp ring fails: ring, flag and pool entry go, and the call takes a recall (R135). -/
def failCampRing (ref : Nat) (s : State) : State :=
  match s.call ref with
  | none => s
  | some c => leaveCampOn ref ((clearRing c.dest s).modCall ref (fun c => { c with fromCamp := false }))

/-- Remove a call from a station's camp list (R15, R136). -/
def leaveCampList (st ref : Nat) (s : State) : State :=
  s.modStation st (fun e => { e with campList := e.campList.filter (fun x => x ≠ ref) })

/-- The CAMP deadline from the original camp start (R134). -/
def campReturnDeadline (s : State) (c : CallRecord) : Deadline := ⟨.camp, c.campStart.getD s.timeCount, s.timers.camp⟩

/-- BUSY at a camp ring: back to the head of the list, or a recall where the camp time has passed (R134). -/
def returnCampRing (ref : Nat) (s : State) : State :=
  match s.call ref with
  | none => s
  | some c =>
    let d := campReturnDeadline s c
    if d.due s.timeCount then failCampRing ref s
    else (s.modStation c.dest Station.ringToList).modCall ref (fun c =>
      { c with state := .camped, fromCamp := false, progress := none, deadline := some d })

/-- Every call of a camp list is recalled, oldest first, and the list is emptied (R137). -/
def recallCampList (st : Nat) (s : State) : State :=
  (s.station st).campList.foldl (fun t ref => leaveCampOn ref t) (s.modStation st (fun e => { e with campList := [] }))

/-- A station update (R109). -/
def stationUpdate (st : Nat) (new : StationState) (s : State) : State :=
  let t := s.modStation st (fun e => { e with state := new })
  match new with
  | .idle => if (t.station st).campList.isEmpty ∨ (t.station st).ring.isSome then t else startCampRing st t
  | .dnd | .out => recallCampList st t
  | .busy | .ringing => t

end Sys2Proof.Machine
end

