-- ==== Sys2Proof/Machine/Event.lean ====
section
/-! DEFINITION. What every event has in common: the consequences at its end (R55, R56), the messages to the consoles
(R51, R81, R204, R205), admission at the outbound queue (R194), and the port's treatment of a request (R188, R189). -/

namespace Sys2Proof.Machine

/-! ## The end of an event -/

/-- A changed talk loop clears the dialled station; a talk path that has emptied sets the idle-since time (R55). -/
def talkEffect (before : State) (now p : Nat) (q : Position) : Position :=
  if q.talkLoop = (before.pos p).talkLoop then q
  else { q with dialled := none,
                idleSince := if (before.pos p).talkLoop.isSome && q.talkLoop.isNone then now else q.idleSince }

/-- A position of group `g` is offerable after the event and was not before (R56). -/
def newlyOfferable (before after : State) (g : Nat) : Bool :=
  positionNumbers.any (fun p => offerable g p after && !offerable g p before)

/-- Positions that became offerable are reported to the Queue Distributor (R56). -/
def reportOfferable (before after : State) : State :=
  groupNumbers.foldl (fun t g => if newlyOfferable before after g then markPairing g t else t) after

/-- The GROUP message of a position's group, if the event changed its waiting count or lamp (R51). -/
def groupChange (before after : State) (p : Nat) : List ConMsg :=
  let g := (after.pos p).group
  if groupMsg g before = groupMsg g after then [] else [groupMsg g after]

/-- A message stands in the image at each of these moments: no later change takes it back. -/
def stands (moments : List Moment) (x : ConMsg) : Bool := moments.all (fun m => m.image.contains x)

/-- The messages for the changes `news` of a position's image, and the tones, in the order in which the moments produced them
(R204): a change is produced at the first moment from which it stands to the end of the event, or after the last one. What
one moment produces stands in the order of the image, before the moment's tone (DESIGN CHOICE, log 7). -/
def inOrder : List ConMsg → List Moment → List ConMsg
  | news, [] => news
  | news, m :: rest =>
    news.filter (stands (m :: rest)) ++ m.tone.toList.map .tone ++ inOrder (news.filter (fun x => !stands (m :: rest) x)) rest

/-- The moments of the event at a position. -/
def momentsAt (p : Nat) (s : State) : List Moment := s.moments.filter (fun m => m.pos == p)

/-- The messages that an event produces for a position: its image changes and tones in the order produced, then the GROUP
message, which is derived from the whole event (R51, R81, R204; log 7). -/
def eventMsgs (before after : State) (p : Nat) : List ConMsg :=
  inOrder (imageChanges before after p) (momentsAt p after) ++ groupChange before after p

/-- A full refresh: every message but one in flight is discarded, and the whole image is placed (R205). -/
def refreshed (s : State) (p : Nat) (q : Position) : Position :=
  { q with buffer := (if q.inFlight then q.buffer.take 1 else []) ++ wholeImage p s }

/-- Place an event's messages in a present console's buffer; past 16 they overflow into a full refresh (R204). -/
def placeMsgs (s : State) (p : Nat) (msgs : List ConMsg) (q : Position) : Position :=
  if q.present then
    if q.buffer.length + msgs.length ≤ Config.bufferCapacity then { q with buffer := q.buffer ++ msgs }
    else refreshed s p q
  else q

/-- The console messages of an event, placed when it has been taken whole (R81, R204). -/
def deliver (before after : State) : State :=
  { after.mapPositions (fun p => placeMsgs after p (eventMsgs before after p)) with moments := [] }

/-- The end of an event that led from `before` to `after`. -/
def endEvent (before after : State) : State :=
  deliver before (reportOfferable before (after.mapPositions (talkEffect before after.timeCount)))

/-- Mark a present position for full refresh (R205). -/
def refreshPosition (p : Nat) (s : State) : State :=
  s.modPos p (fun q => if q.present then refreshed s p q else q)

/-! ## Transactions in progress (R184, R185) -/

/-- Rows that are transactions of the control link. -/
def isTransaction : Instr → Bool
  | .statusPoll _ | .read _ | .malformedRequest
  | .present _ _ _ _ _ | .cleared _ | .take _ _ _ _ | .query _ | .scan _ _
  | .ringResult _ _ _ | .divertResult _ _
  | .stationState _ _ | .stationBlock _ _ _ | .stationAttr _ _
  | .configureClass _ _ _ _ | .configureAgeShift _ _ | .configureBypassLimit _ _ | .configureRecallLimit _ _
  | .configureGroup _ _ _ _ _ _ _ | .configurePosition _ _ _ | .configureTimers _ _ _ _ _ _ _ _
  | .configureHunt _ _ _ _ _ _ | .configureUnknownItem _ _
  | .restart | .linkClear => true
  | .hardwareReset | .resetNRelease | .startUpEnd | .timeCountTick
  | .scanStep | .blockUpdateStep | .pairing _ | .sweepStep _ | .releaseStep _
  | .queueExpiry _ | .warningExpiry _ | .offerExpiry _ | .holdExpiry _ | .recallRingExpiry _
  | .noAnswerExpiryExtending _ | .noAnswerExpiryRingingAway _ | .campRingNoAnswerExpiry _ | .campExpiry _
  | .pollCycle | .poll _ | .countedReply _ _ _ | .missedPoll _ | .presenceRestore _ _ _
  | .answer _ | .loop _ _ | .hold _ | .release _ | .extend _ | .extendBlind _ | .retry _ | .hunt _ _
  | .cancel _ | .swap _ | .camp _ | .ready _ | .breakKey _ | .signIn _ | .signOut _
  | .unknownKey _ _ _ | .dial _ _ => false

/-- The state in which an event inside the part is taken. The first transaction that waits has begun if the event falls
inside it: if the transaction stands among as many of the next commands as its entry of `overlaps` says. Its status byte then
stands as it was shifted out before the event; else it is yet to be formed (R184, R185; log 4). -/
def State.begun (s : State) : State :=
  if s.opened = none ∧ (s.pending.take (s.overlaps.headD 0)).any isTransaction then { s with opened := some (statusByte s) }
  else s

/-- A transaction has ended: the byte that opened it and its entry of `overlaps` are done with (R184; log 4). -/
def State.closed (s : State) : State := { s with opened := none, overlaps := s.overlaps.tail }

/-- The status byte that opened the transaction which ends now (R185). -/
def openingByte (s : State) : Byte := s.opened.getD (statusByte s)

/-- The status byte of the transaction that ends now shows DISCARDED (R185). -/
def showsDiscarded (s : State) : Bool := (openingByte s).getLsbD 3

/-- The status byte of the transaction that ends now shows ATTN (R185). -/
def showsAttn (s : State) : Bool := (openingByte s).getLsbD 6

/-! ## Admission (R194) -/

/-- While RESET_N is low, the part takes no event (R211). -/
def unlessReset (f : State → State) (s : State) : State := if s.phase = .inReset then s else f s

/-- A transaction; one that ends while RESET_N is low leaves nothing but its end (R184, R211; log 4). -/
def atPort (f : State → State) (s : State) : State := if s.phase = .inReset then s.closed else f s

/-- An event inside the part, which a transaction in progress does not hold up (R184). -/
def insideEvent (f : State → State) : State → State := unlessReset (fun s => f s.begun)

/-- An event begins to wait for the reserve; it holds one place in the order (R194). -/
def joinWaiting (w : Waiting) (s : State) : State :=
  if s.waiting.contains w then s else { s with waiting := s.waiting ++ [w] }

/-- An event carried out whole. -/
def takeEvent (f : State → State) (s : State) : State := endEvent s (f s)

/-- An admitted event: taken when the reserve is free, else it waits (R194). -/
def takeAdmitted (w : Waiting) (f : State → State) (s : State) : State :=
  if s.reserveFree then takeEvent f s else joinWaiting w s

/-! ## Requests (R188 to R191) -/

/-- The transaction that ends now: its status byte, shown whole, clears the DISCARDED that it shows (R184, R185). -/
def shiftStatus (s : State) : State :=
  { s.closed with sdo := [openingByte s], discarded := s.discarded && !showsDiscarded s }

/-- An answer to a request of kind `k`. -/
def answer (k : ReqKind) (code : AnswerCode) (ref st : Nat) (payload : Payload := .none) : Msg :=
  .answer k code ref st payload

/-- The answer of a locked link (R191). -/
def lockedAnswer (k : ReqKind) : Msg := .answer k .locked 0 0 .none

/-- A WRITE that carries a request (R188, R189): discarded when the port is not ready as the WRITE ends, answered LOCKED on a locked link,
else handed to its owner. The owner's step `f` includes the end of its event. -/
def writeRequest (k : ReqKind) (f : State → State) (s : State) : State :=
  let t := shiftStatus s
  if s.isReady then if s.locked then t.emit (lockedAnswer k) else f t
  else { t with discarded := true }

/-- A request whose owner takes it as one event. -/
def request (k : ReqKind) (f : State → State) : State → State := atPort (writeRequest k (takeEvent f))

end Sys2Proof.Machine
end

