-- ==== Sys2Proof/Machine/Talk.lean ====
section
/-! DEFINITION. Calls on a position: the talk path, extends and their ends, offers, leaving events, night and day entry
(chapters 3, 4 and 8). -/

namespace Sys2Proof.Machine

/-! ## The talk path (R68, R69, R73) -/

/-- A call is taken onto the talk path of position `p` in loop `l` (R69). The dialled station is cleared here too, so
that a talk call replaced in the same loop clears it (DEDUCED, log 20). -/
def takeOntoTalkPath (p ref l : Nat) (s : State) : State :=
  ((s.modPos p (fun q => { q.setLoop l (some ref) with talkLoop := some l, dialled := none })).modCall ref (fun c =>
    { c with state := .talking, loop := some l, home := some p, talkSide := some .source, deadline := none,
             divertFailed := false, warning := false })).emit (.attach ref p .source)

/-- A TALKING call is put on hold: HOLD order, HELD on the same loop, hold deadline; the talk path empties (R68, R73). -/
def holdCall (p ref : Nat) (s : State) : State :=
  ((s.modPos p (fun q => { q with talkLoop := none })).modCall ref (fun c =>
    { c with state := .held, talkSide := none, deadline := s.deadlineNow .hold s.timers.hold })).emit (.hold ref)

/-- Set the notice of a call's position (R80). -/
def noticeHome (c : CallRecord) (n : Notice) (s : State) : State :=
  match c.home with
  | some p => s.setNotice p (some n)
  | none => s

/-! ## Ends of an extend (R94, R98, R100) -/

/-- ATTACH SOURCE where the talk side is DEST (R92, R94). -/
def attachSource (c : CallRecord) (s : State) : State :=
  if c.talkSide = some .dest then s.emit (.attach c.ref (c.home.getD 0) .source) else s

/-- Return to the source (R94). -/
def returnToSource (c : CallRecord) (s : State) : State :=
  (attachSource c s).modCall c.ref (fun c =>
    { c with state := .talking, talkSide := some .source, progress := none, deadline := none })

/-- Blind release (R100). -/
def blindRelease (c : CallRecord) (s : State) : State :=
  (leaveLoop c.ref s).modCall c.ref (fun c => { c with state := .ringingAway, talkSide := none })

/-- The call leaves its loop, if it is on one, and its record is retired (R74, R98). -/
def leaveAndRetire (ref : Nat) (s : State) : State := retire ref (leaveLoop ref s)

/-- Screened completion (R98). -/
def bridgeCall (c : CallRecord) (s : State) : State := leaveAndRetire c.ref (s.emit (.bridge c.ref))

/-- A destination leg exists: progress PENDING, RINGING or ANSWERED (R13). -/
def CallRecord.hasLeg (c : CallRecord) : Bool :=
  match c.progress with
  | some .pending | some .ringing | some .answered => true
  | some .busy | none => false

/-- RELEASE of an EXTENDING call by its mode and progress; none where it is refused (R68, R98, R99). -/
def releaseExtend (c : CallRecord) (s : State) : Option State :=
  match c.progress with
  | some .answered => some (bridgeCall c s)
  | some .busy => some (returnToSource c s)
  | _ => match c.mode with
    | .blind => some (blindRelease c s)
    | .screened => none

/-- Clearing the talk path (R68); none where the release attempt is refused. -/
def clearTalkPath (p : Nat) (s : State) : Option State :=
  match talkCall p s with
  | none => some s
  | some c =>
    if c.state = .extending then
      (releaseExtend c s).map (fun t => if c.progress = some .busy then holdCall p c.ref t else t)
    else some (holdCall p c.ref s)

/-! ## Starting an extend (R86 to R89) -/

/-- The effective mode: a protected station, then the group's policy, then the key (R86). -/
def settleMode (prot : Bool) (policy : TransferPolicy) (byKey : Mode) : Mode :=
  if prot then .screened
  else match policy with
    | .screened => .screened
    | .blind => .blind
    | .select => byKey

/-- The record's part of an extend start (R87). -/
def startExtendRecord (st : Nat) (m : Mode) (c : CallRecord) : CallRecord :=
  { c with prevDest := c.curDest, curDest := some st, attempt := nextAttempt c.attempt, mode := m, fromCamp := false,
           state := .extending }

/-- The station has calls in its camp list or a camp ring (R88, R89). -/
def hasCampers (st : Nat) (s : State) : Bool := !(s.station st).campList.isEmpty || (s.station st).ring.isSome

/-- The extend rings the station (R88), or meets campers (R89). -/
def ringOrCampers (p : Nat) (c : CallRecord) (st : Nat) (s : State) : State :=
  if hasCampers st s then
    (s.modCall c.ref (fun c => { c with progress := some .busy, talkSide := some .source, deadline := none })).setNotice p
      (some .campersWaiting)
  else
    (s.modCall c.ref (fun c =>
      { c with progress := some .pending, talkSide := some .dest,
               deadline := s.deadlineNow .noAnswer s.timers.noAnswer })).emit (.ring c.ref st (nextAttempt c.attempt))

/-- The start of an extend of talk call `c` at position `p` to station `st` (R85 to R89). A call EXTENDING with progress
BUSY first returns to the source, which places no message (R84). -/
def startExtend (p : Nat) (c : CallRecord) (st : Nat) (byKey : Mode) (s : State) : State :=
  let m := settleMode (s.station st).prot (s.group c.group).policy byKey
  let a := if c.state = .extending then returnToSource c s else s
  let b := a.modPos p (fun q =>
    { q with dialled := none, notice := if (s.station st).prot then some .screened else q.notice })
  ringOrCampers p c st (b.modCall c.ref (startExtendRecord st m))

/-! ## Offers (R42 to R46) -/

/-- Of two offerable positions, `a` has been idle longer (R40). -/
def idleLonger (s : State) (a b : Nat) : Bool :=
  (s.pos a).idleSince < (s.pos b).idleSince || ((s.pos a).idleSince == (s.pos b).idleSince && a < b)

/-- The offerable position of a group that has been idle longest (R40). -/
def idleLongest (g : Nat) (s : State) : Option Nat :=
  bestBy (idleLonger s) (positionNumbers.filter (fun p => offerable g p s))

/-- An offer of a chosen call to a position (R43). -/
def makeOffer (g p : Nat) (c : CallRecord) (s : State) : State :=
  (((takeChosen g c s).modPos p (fun q => { q with offer := some c.ref })).modCall c.ref (fun c =>
    { c with state := .offered, deadline := s.deadlineNow .offer s.timers.offer })).tone p .notice

/-- The pairing: offers while the group has a selectable call and an offerable position, at most eight (R42). -/
def pairUp (g : Nat) : Nat → State → State
  | 0, s => s
  | n + 1, s =>
    match idleLongest g s, selectCall g s with
    | some p, some c => pairUp g n (makeOffer g p c s)
    | _, _ => s

/-- The position whose pending offer is `ref`. -/
def offeredTo (ref : Nat) (s : State) : Option Nat := positionNumbers.find? (fun p => (s.pos p).offer = some ref)

/-- A pending offer is withdrawn and its call reinserted (R46). -/
def withdrawOffer (p : Nat) (s : State) : State :=
  match (s.pos p).offer with
  | none => s
  | some ref => reinsert ref (s.modPos p (fun q => { q with offer := none }))

/-! ## Night and day (R171, R173, R178) -/

/-- A waiting call that night entry marks (R171). -/
def markNight (queue : List Nat) (c : CallRecord) : CallRecord :=
  if queue.contains c.ref && !c.divertFailed then { c with nightBound := true } else c

/-- The calls of the group are marked night-bound (R171). -/
def markQueue (g : Nat) (s : State) : State := s.mapCalls (markNight (s.group g).queue)

/-- The sweep starts where a call is night-bound and it was IDLE (R171). -/
def startSweep (g : Nat) (s : State) : State :=
  if hasNightBound g s then
    s.modGroup g (fun r => if r.sweep = .idle then { r with sweep := .active s.timeCount } else r)
  else s

/-- Night entry (R171). -/
def nightEntry (g : Nat) (s : State) : State :=
  let t := s.modGroup g (fun r => { r with mode := .night })
  if (s.group g).night.isSome then startSweep g (markQueue g t) else t

/-- Night entry, where no position of the group is signed in (R61, R171). -/
def nightIfUnstaffed (g : Nat) (s : State) : State := if staffed g s then s else nightEntry g s

/-- Clear the mark of a call of the group's queue (R173, R178). -/
def unmarkNight (queue : List Nat) (c : CallRecord) : CallRecord :=
  if queue.contains c.ref then { c with nightBound := false } else c

/-- Every night-bound mark of the group is cleared, the sweep becomes IDLE, and the calls may be paired (R42, R173,
R178). -/
def clearMarks (g : Nat) (s : State) : State :=
  markPairing g ((s.mapCalls (unmarkNight (s.group g).queue)).modGroup g (fun r => { r with sweep := .idle }))

/-- Day entry of a NIGHT group (R173). -/
def dayEntry (g : Nat) (s : State) : State :=
  let t := s.modGroup g (fun r => { r with mode := .day })
  if (s.group g).mode = .night ∧ (s.group g).sweep ≠ .idle ∧ (s.group g).sweepPolicy = .staffFirst then clearMarks g t
  else t

/-! ## Leaving events (R61, R62) -/

/-- The release list of a position: the talk loop first, then the other occupied loops (R61, R62). -/
def Position.toRelease (q : Position) : List Nat :=
  match q.talkLoop with
  | none => q.heldLoops
  | some l => l :: q.heldLoops.filter (fun x => x ≠ l)

/-- A leaving event (R61, R62). -/
def leavingEvent (p : Nat) (s : State) : State :=
  let a := withdrawOffer p ((s.modPos p (fun q => { q with avail := .signedOut })).note p)
  let b := (a.note p).modPos p (fun q => { q with dialled := none, notice := none, releaseList := q.toRelease })
  nightIfUnstaffed (s.pos p).group b

/-! ## Withdrawal (R14, R15) -/

/-- The order of a withdrawal that ends a destination leg (R14, R15). -/
def dropLeg (c : CallRecord) (s : State) : State :=
  if c.state = .ringingAway ∨ (c.state = .extending ∧ c.hasLeg) then s.emit (.drop c.ref c.attempt) else s

/-- The record's place is emptied; `notice` is shown where it was the talk call (R14, R15). -/
def leavePlace (notice : Notice) (c : CallRecord) (s : State) : State :=
  match c.state with
  | .queued => settleSweep c.group (dequeue c.group c.ref s)
  | .offered =>
    match offeredTo c.ref s with
    | some p => s.modPos p (fun q => { q with offer := none })
    | none => s
  | .talking | .extending => noticeHome c notice (leaveLoop c.ref s)
  | .held | .recalling => leaveLoop c.ref s
  | .camped => leaveCampList c.dest c.ref s
  | .ringingAway => if c.fromCamp then clearRing c.dest s else s
  | .diverting => s

/-- Withdrawal and retirement (R11, R14, R15). -/
def withdraw (notice : Notice) (c : CallRecord) (s : State) : State := retire c.ref (leavePlace notice c (dropLeg c s))

end Sys2Proof.Machine
end

