-- ==== Sys2Proof/Machine/CallTable.lean ====
section
/-! DEFINITION. PRESENT, CLEARED, TAKE, QUERY, SCAN and SCAN_STEP (chapter 1). -/

namespace Sys2Proof.Machine

/-! ## PRESENT (R8 to R10) -/

/-- A record at allocation (R6). -/
def newRecord (ref : Nat) (kind : OriginKind) (number cls grp : Nat) (tag : List Nat) : CallRecord where
  ref := ref
  state := .queued
  originKind := kind
  originNum := number
  tag := readTag tag
  presentedClass := cls
  queueClass := cls
  group := grp
  enqueueTime := 0
  arrivalSeq := 0
  bypass := 0
  warning := false
  nightBound := false
  divertFailed := false
  home := none
  loop := none
  talkSide := none
  curDest := none
  prevDest := none
  progress := none
  attempt := 0
  mode := .screened
  fromCamp := false
  campStart := none
  recallCount := 0
  deadline := none

/-- The reference that an allocation of slot `n` forms (R4). -/
def newRef (n : Nat) (s : State) : Nat := nextGen (s.slot n).gen * 256 + n

/-- Allocation of slot `n` and the hand-off to the queue or to night diversion (R4, R6, R10). -/
def allocate (n : Nat) (kind : OriginKind) (number cls grp : Nat) (tag : List Nat) (s : State) : State :=
  let ref := newRef n s
  placeFresh ref
    (freshStamp ref (s.setSlot n ⟨nextGen (s.slot n).gen, some (newRecord ref kind number cls grp tag)⟩))

/-- PRESENT at the Call Table (R8, R9). -/
def presentEffect (kind number cls grp : Nat) (tag : List Nat) (s : State) : State :=
  if presentValuesOk kind number cls grp tag then
    let k := (readOriginKind kind).getD .trunk
    match findOrigin k number s with
    | some c => s.emit (answer .present .duplicate c.ref c.state.code)
    | none =>
      match freeSlot s with
      | none => s.emit (answer .present .tableFull 0 0)
      | some n =>
        answerFirst s (allocate n k number cls grp tag)
          (fun t => answer .present .ok (newRef n s) (stateCode (newRef n s) t))
  else s.emit (answer .present .badValue 0 0)

/-- PRESENT (R9). -/
def execPresent (kind number cls grp : Nat) (tag : List Nat) (s : State) : Host.Outcome State Fault Refusal :=
  .next (request .present (presentEffect kind number cls grp tag) s)

/-! ## CLEARED and TAKE (R13 to R19) -/

/-- The answer UNKNOWN or STALE of a request that names no live record; a live record goes to `f` (R3). -/
def onRecord (k : ReqKind) (report : Bool) (ref : Nat) (f : CallRecord → State → State) (s : State) : State :=
  match resolve report ref s with
  | .unknown => s.emit (answer k .unknown ref 0)
  | .stale => s.emit (answer k .stale ref 0)
  | .live c => f c s

/-- Withdrawal, retirement and the answer OK with the state the record had (R13, R18). -/
def withdrawAnswered (k : ReqKind) (notice : Notice) (c : CallRecord) (s : State) : State :=
  answerFirst s (withdraw notice c) (fun _ => answer k .ok c.ref c.state.code)

/-- CLEARED (R13). -/
def execCleared (ref : Nat) (s : State) : Host.Outcome State Fault Refusal :=
  .next (request .cleared (onRecord .cleared false ref (withdrawAnswered .cleared .callerCleared)) s)

/-- TAKE of a found record (R18). -/
def takeRecord (cond : TakeCondition) (c : CallRecord) (s : State) : State :=
  if cond.holds c.state then withdrawAnswered .take .callTaken c s
  else s.emit (answer .take .notInState c.ref c.state.code)

/-- BAD_VALUE of a TAKE: the reference given, or a free value where none was given (R17, R191; log 10). -/
def takeBad (selector : Option TakeSelector) (value : Nat) (s : State) : State :=
  if selector = some .byReference then s.emit (answer .take .badValue value 0)
  else { s with freeDraws := s.freeDraws + 1 }.emit
    (answer .take .badValue (Config.takeBadValueReference s.freeDraws).toNat 0)

/-- TAKE at the Call Table (R17). -/
def takeEffect (selector cond kind value : Nat) (s : State) : State :=
  match readSelector selector, readCondition cond with
  | some .byReference, some cd => onRecord .take false value (takeRecord cd) s
  | some .byOrigin, some cd =>
    match readOriginKind kind with
    | none => takeBad (some .byOrigin) value s
    | some k =>
      if isStationNumber value then
        match findOrigin k value s with
        | none => s.emit (answer .take .unknown 0 0)
        | some c => takeRecord cd c s
      else takeBad (some .byOrigin) value s
  | sel, _ => takeBad sel value s

/-- TAKE (R18). -/
def execTake (selector cond kind value : Nat) (s : State) : Host.Outcome State Fault Refusal :=
  .next (request .take (takeEffect selector cond kind value) s)

/-! ## QUERY and SCAN (R20 to R24) -/

/-- The answer OK with a record's image (R20, R23). -/
def imageAnswer (k : ReqKind) (c : CallRecord) (s : State) : Msg :=
  answer k .ok c.ref c.state.code (.image (imageOf c s.timeCount))

/-- QUERY (R20). -/
def execQuery (ref : Nat) (s : State) : Host.Outcome State Fault Refusal :=
  .next (request .query (onRecord .query false ref (fun c s => s.emit (imageAnswer .query c s))) s)

/-- SCAN at the Call Table (R22). -/
def scanEffect (first rep : Nat) (s : State) : State :=
  if 15 < rep then s.emit (answer .scan .badValue 0 0 (.scanBad first rep))
  else { s with scan := some ⟨first, first, min (rep + 1) (Config.slotCount - first), 0, 0⟩ }

/-- SCAN (R22). -/
def execScan (first rep : Nat) (s : State) : Host.Outcome State Fault Refusal := .next (request .scan (scanEffect first rep) s)

/-- The image answer of a scanned slot; nothing for a FREE slot (R23). -/
def scanSlot (n : Nat) (s : State) : State :=
  match (s.slot n).call with
  | none => s
  | some c => s.emit (imageAnswer .scan c s)

/-- The scan after it has examined its next slot (R23). -/
def Scan.advance (sc : Scan) (found : Bool) : Scan :=
  { sc with next := sc.next + 1, left := sc.left - 1, found := sc.found + bit found 1, examined := sc.examined + 1 }

/-- A scan step (R23): the last one queues the closing answer and ends the scan. -/
def scanStepEffect (s : State) : State :=
  match s.scan with
  | none => s
  | some sc =>
    let sc' := sc.advance (s.slot sc.next).call.isSome
    if sc'.left = 0 then
      { scanSlot sc.next s with scan := none }.emit (answer .scan .ok 0 0 (.scanClosing sc'.first sc'.examined sc'.found))
    else { scanSlot sc.next s with scan := some sc' }

/-- SCAN_STEP (R23): a step of the scan in progress, admitted at the outbound queue. -/
def execScanStep (s : State) : Host.Outcome State Fault Refusal :=
  .next (insideEvent (fun s => if s.scan.isSome then takeAdmitted .scan scanStepEffect s else s) s)

end Sys2Proof.Machine
end

