-- ==== Sys2Proof/Machine/Configure.lean ====
section
/-! DEFINITION. The CONFIGURE items (R207 to R210): each item is checked, clamped and written whole or not
at all. -/

namespace Sys2Proof.Machine

/-- The answer to a CONFIGURE (R191, R207). -/
def configureAnswer (code : AnswerCode) (item index : Nat) (clamped : Bool) (s : State) : State :=
  s.emit (answer .configure code 0 0 (.configure item index clamped))

/-- BAD_VALUE, with nothing written (R208). -/
def configureBad (item index : Nat) (s : State) : State := configureAnswer .badValue item index false s

/-- CONFIGURE CLASS (R207, R209): only the base can lie outside its range. -/
def configureClassEffect (cls base weight overflow : Nat) (s : State) : State :=
  if cls ≤ 7 then
    configureAnswer .ok 1 cls (outside 0 4095 base) (s.setCls cls ⟨clamp 0 4095 base, weight, overflow⟩)
  else configureBad 1 cls s

/-- CONFIGURE_CLASS (R209). -/
def execConfigureClass (cls base weight overflow : Nat) (s : State) : Host.Outcome State Fault Refusal :=
  .next (request .configure (configureClassEffect cls base weight overflow) s)

/-- CONFIGURE AGE_SHIFT (R209). -/
def configureAgeShiftEffect (index shift : Nat) (s : State) : State :=
  configureAnswer .ok 2 index (outside 0 15 shift) { s with ageShift := clamp 0 15 shift }

/-- CONFIGURE_AGE_SHIFT (R209). -/
def execConfigureAgeShift (index shift : Nat) (s : State) : Host.Outcome State Fault Refusal :=
  .next (request .configure (configureAgeShiftEffect index shift) s)

/-- A bypass count above the limit is set to it (R39). -/
def clampBypass (limit : Nat) (c : CallRecord) : CallRecord := { c with bypass := min c.bypass limit }

/-- CONFIGURE BYPASS_LIMIT (R39, R209): a count is above the new limit only where the limit has been lowered. -/
def configureBypassLimitEffect (index limit : Nat) (s : State) : State :=
  let l := clamp 0 8 limit
  configureAnswer .ok 3 index (outside 0 8 limit)
    { (if l < s.bypassLimit then s.mapCalls (clampBypass l) else s) with bypassLimit := l }

/-- CONFIGURE_BYPASS_LIMIT (R39). -/
def execConfigureBypassLimit (index limit : Nat) (s : State) : Host.Outcome State Fault Refusal :=
  .next (request .configure (configureBypassLimitEffect index limit) s)

/-- A recall count above the limit is set to it (R160). -/
def clampRecall (limit : Nat) (c : CallRecord) : CallRecord := { c with recallCount := min c.recallCount limit }

/-- CONFIGURE RECALL_LIMIT (R160, R209). -/
def configureRecallLimitEffect (index limit : Nat) (s : State) : State :=
  let k := clamp 1 7 limit
  configureAnswer .ok 4 index (outside 1 7 limit)
    { (if k < s.recallLimit then s.mapCalls (clampRecall k) else s) with recallLimit := k }

/-- CONFIGURE_RECALL_LIMIT (R160). -/
def execConfigureRecallLimit (index limit : Nat) (s : State) : Host.Outcome State Fault Refusal :=
  .next (request .configure (configureRecallLimitEffect index limit) s)

/-- The configured fields of a group written (R27, R209). -/
def writeGroup (mode : OfferMode) (policy : TransferPolicy) (sweepPolicy : SweepPolicy) (overflow night depth : Nat)
    (r : GroupRecord) : GroupRecord :=
  { r with offerMode := mode, policy := policy, overflow := readOptStation overflow, night := readOptStation night,
           sweepPolicy := sweepPolicy, alarmDepth := clamp 1 64 depth,
           pairingDue := r.pairingDue && mode == .offer }

/-- CONFIGURE GROUP (R28, R207 to R209): a change from PULL to OFFER calls for a pairing. -/
def configureGroupEffect (grp offerMode policy overflow night sweepPolicy depth : Nat) (s : State) : State :=
  match readOfferMode offerMode, readPolicy policy, readSweepPolicy sweepPolicy with
  | some m, some p, some w =>
    if isGroup grp && optStationOk overflow && optStationOk night then
      let t := s.modGroup grp (writeGroup m p w overflow night depth)
      configureAnswer .ok 5 grp (outside 1 64 depth) (if (s.group grp).offerMode = .pull then markPairing grp t else t)
    else configureBad 5 grp s
  | _, _, _ => configureBad 5 grp s

/-- CONFIGURE_GROUP (R28). -/
def execConfigureGroup (grp offerMode policy overflow night sweepPolicy depth : Nat) (s : State) :
    Host.Outcome State Fault Refusal :=
  .next (request .configure (configureGroupEffect grp offerMode policy overflow night sweepPolicy depth) s)

/-- A position that a change would disturb: READY, BREAK, or releasing (R53, R208). -/
def Position.inUse (q : Position) : Bool := q.avail.signedIn || !q.releaseList.isEmpty

/-- Polling of a position and its exchange in progress stop when its link state is reset (R198; log 12). -/
def stopPolling (p : Nat) (s : State) : State :=
  { s with toPoll := s.toPoll.filter (fun x => x ≠ p),
           exchange := if s.exchange.any (fun x => x.pos = p) then none else s.exchange,
           waiting := s.waiting.filter (fun w => w ≠ .key p) }

/-- The change of a position's enabled flag and group, with its console link (R53, R198). -/
def changePosition (p : Nat) (enabled : Bool) (grp : Nat) (s : State) : State :=
  if enabled = (s.pos p).enabled then refreshPosition p (s.modPos p (fun q => { q with group := grp }))
  else stopPolling p (s.modPos p (fun q => resetLink { q with enabled := enabled, group := grp }))

/-- CONFIGURE POSITION (R53, R198, R207, R208): BAD_VALUE, then IN_USE; values already held alter nothing. -/
def configurePositionEffect (pos enabled grp : Nat) (s : State) : State :=
  match readFlag enabled with
  | none => configureBad 6 pos s
  | some e =>
    if isPosition pos && isGroup grp then
      if e = (s.pos pos).enabled ∧ grp = (s.pos pos).group then configureAnswer .ok 6 pos false s
      else if (s.pos pos).inUse then configureAnswer .inUse 6 pos false s
      else configureAnswer .ok 6 pos false (changePosition pos e grp s)
    else configureBad 6 pos s

/-- CONFIGURE_POSITION (R53). -/
def execConfigurePosition (pos enabled grp : Nat) (s : State) : Host.Outcome State Fault Refusal :=
  .next (request .configure (configurePositionEffect pos enabled grp) s)

/-- The timers, each clamped (R209). -/
def clampTimers (w o h r n c x : Nat) : Timers :=
  ⟨clamp 10 600 w, clamp 30 300 o, clamp 100 6000 h, clamp 50 600 r, clamp 50 1200 n, clamp 100 3000 c, clamp 1 50 x⟩

/-- Some timer lies outside its range (R209). -/
def timersOutside (w o h r n c x : Nat) : Bool :=
  outside 10 600 w || outside 30 300 o || outside 100 6000 h || outside 50 600 r || outside 50 1200 n
    || outside 100 3000 c || outside 1 50 x

/-- CONFIGURE TIMERS (R209). -/
def configureTimersEffect (index w o h r n c x : Nat) (s : State) : State :=
  configureAnswer .ok 7 index (timersOutside w o h r n c x) { s with timers := clampTimers w o h r n c x }

/-- CONFIGURE_TIMERS (R209). -/
def execConfigureTimers (index w o h r n c x : Nat) (s : State) : Host.Outcome State Fault Refusal :=
  .next (request .configure (configureTimersEffect index w o h r n c x) s)

/-- The range that a HUNT item configures, its pointer at the first station; none where it is refused (R115). -/
def readHunt (first last dir mode : Nat) : Option HuntRange :=
  match readDir dir, readHuntMode mode with
  | some d, some m =>
    if isStationNumber first && isStationNumber last && d.agrees first last then some ⟨first, last, d, m, first⟩ else none
  | _, _ => none

/-- CONFIGURE HUNT (R115, R207, R208). -/
def configureHuntEffect (range configured first last dir mode : Nat) (s : State) : State :=
  if range ≤ 15 then
    match readFlag configured with
    | none => configureBad 8 range s
    | some false => configureAnswer .ok 8 range false (s.setHunt range none)
    | some true =>
      match readHunt first last dir mode with
      | none => configureBad 8 range s
      | some h => configureAnswer .ok 8 range false (s.setHunt range (some h))
  else configureBad 8 range s

/-- CONFIGURE_HUNT (R115). -/
def execConfigureHunt (range configured first last dir mode : Nat) (s : State) : Host.Outcome State Fault Refusal :=
  .next (request .configure (configureHuntEffect range configured first last dir mode) s)

/-- CONFIGURE_UNKNOWN_ITEM (R207). -/
def execConfigureUnknownItem (item index : Nat) (s : State) : Host.Outcome State Fault Refusal :=
  .next (request .configure (configureBad item index) s)

end Sys2Proof.Machine
end

