-- ==== Sys2Proof/Machine/Frames.lean ====
section
/-! DEFINITION. The frames that the part sends: outbound messages on the control link (R191, R193, R196) and polls on the
console bus (R206). -/

namespace Sys2Proof.Machine

/-! ## Codes -/

/-- Request kinds (R187). -/
def ReqKind.code : ReqKind → Nat
  | .present => 0x01
  | .cleared => 0x02
  | .ringResult => 0x03
  | .divertResult => 0x04
  | .stationState => 0x05
  | .stationBlock => 0x06
  | .stationAttr => 0x07
  | .take => 0x08
  | .query => 0x09
  | .scan => 0x0A
  | .configure => 0x0B
  | .restart => 0x0C
  | .linkClear => 0x0D

/-- Answer codes (R192). -/
def AnswerCode.code : AnswerCode → Nat
  | .ok => 0
  | .tableFull => 1
  | .duplicate => 2
  | .unknown => 3
  | .stale => 4
  | .late => 5
  | .notInState => 6
  | .badValue => 7
  | .inUse => 8
  | .locked => 9

/-- 1 SOURCE, 2 DEST (R193). -/
def Side.code : Side → Nat
  | .source => 1
  | .dest => 2

/-- 1 OVERFLOW, 2 RECALL_LIMIT, 3 NIGHT (R148). -/
def DivertReason.code : DivertReason → Nat
  | .overflow => 1
  | .recallLimit => 2
  | .night => 3

/-- Progress; 0 is absent (R196). -/
def progressCode : Option Progress → Nat
  | none => 0
  | some .pending => 1
  | some .ringing => 2
  | some .answered => 3
  | some .busy => 4

/-- Deadline kinds (R144). -/
def DeadlineKind.code : DeadlineKind → Nat
  | .queue => 1
  | .warning => 2
  | .offer => 3
  | .hold => 4
  | .recallRing => 5
  | .noAnswer => 6
  | .camp => 7

/-- 0 TRUNK, 1 STATION (R196). -/
def OriginKind.code : OriginKind → Nat
  | .trunk => 0
  | .station => 1

/-- 0 SCREENED, 1 BLIND (R196). -/
def Mode.code : Mode → Nat
  | .screened => 0
  | .blind => 1

/-- An optional one-byte value: 0 is absent (R196). -/
def optByte (n : Option Nat) : Nat := n.getD 0
/-- An optional station: FFFFh is absent (R196, R206). -/
def optStation (n : Option Nat) : Nat := n.getD Config.absentStation

/-! ## Control link -/

/-- The fields of a record image, from answer byte 5, with the bits of no field clear (R196). -/
def imageFields (im : Image) : List Byte :=
  be8 (im.presentedClass * 16 + im.queueClass)
    ++ be16 (im.originKind.code * 32768 + im.originNum)
    ++ be8 (im.group * 16 + (im.deadline.map (fun d => d.1.code)).getD 0)
    ++ be8 (bit im.warning 1 + bit im.nightBound 2 + bit im.divertFailed 4 + bit im.fromCamp 8 + bit im.campAge.isSome 16)
    ++ be8 (optByte im.home * 16 + optByte im.loop)
    ++ be8 ((im.talkSide.map Side.code).getD 0 * 64 + im.mode.code * 32 + progressCode im.progress)
    ++ be16 (optStation im.curDest) ++ be16 (optStation im.prevDest)
    ++ be8 im.attempt ++ be8 (im.bypass * 16 + im.recallCount)
    ++ be32 im.arrivalSeq ++ be16 im.waitingAge ++ be16 (im.campAge.getD 0)
    ++ be16 ((im.deadline.map (fun d => d.2)).getD 0)

/-- Eight bits in the places of a record image that R196 gives to no field: bits 14 to 12 of the origin, bits 7 to 5 of the
flags, bits 4 and 3 of byte 11. -/
def imageUnused (x : Byte) : List Byte :=
  [(0 : Byte), (x &&& 7) <<< 4, 0, 0, (x >>> 3) <<< 5, 0, (x >>> 6) <<< 3] ++ List.replicate 16 (0 : Byte)

/-- The 23 bytes of a record image (R196); the bits of no field are free (log 26). -/
def imageBytes (im : Image) : List Byte :=
  List.zipWith (fun x y => x ||| y) (imageFields im) (imageUnused (Config.payloadUnusedBits (imageFields im)))

/-- The fields of the answer to STATION_ATTR: the flags in one byte, as in the request (R191, R196; log 26). -/
def attrFields (station : Nat) (prot campAllowed : Bool) : List Byte :=
  be16 station ++ be8 (bit prot 1 + bit campAllowed 2)

/-- The payload of the answer to STATION_ATTR; bits 7 to 2 of the flags are free (log 26). -/
def attrBytes (station : Nat) (prot campAllowed : Bool) : List Byte :=
  let fields := attrFields station prot campAllowed
  List.zipWith (fun x y => x ||| y) fields [0, 0, Config.payloadUnusedBits fields <<< 2]

/-- The payload of an answer (R191); the camp ring flag is 1 where it is set (log 26). -/
def payloadBytes : Payload → List Byte
  | .none => []
  | .image im => imageBytes im
  | .scanClosing first examined found => be8 first ++ be8 examined ++ be8 found
  | .scanBad first rep => be8 first ++ be8 rep
  | .stationWritten station before written listLength ring =>
    be16 station ++ be8 before.code ++ be8 written.code ++ be8 listLength ++ be8 (bit ring 1)
  | .stationBad station => be16 station
  | .blockClosing first count => be16 first ++ be8 count
  | .attrWritten station prot campAllowed => attrBytes station prot campAllowed
  | .configure item index clamped => be8 item ++ be8 index ++ be8 (bit clamped 1)

/-- The kind byte of an outbound message (R193, R196). -/
def Msg.kindCode : Msg → Nat
  | .answer .. => 0x20
  | .attach .. => 0x21
  | .hold .. => 0x22
  | .ring .. => 0x23
  | .drop .. => 0x24
  | .bridge .. => 0x25
  | .divert .. => 0x26
  | .disconnect .. => 0x27

/-- The body of an outbound message (R193, R196). -/
def Msg.body : Msg → List Byte
  | .answer kind code ref st payload => be8 kind.code ++ be8 code.code ++ be16 ref ++ be8 st ++ payloadBytes payload
  | .attach ref pos side => be16 ref ++ be8 pos ++ be8 side.code
  | .hold ref => be16 ref
  | .ring ref station attempt => be16 ref ++ be16 station ++ be8 attempt
  | .drop ref attempt => be16 ref ++ be8 attempt
  | .bridge ref => be16 ref
  | .divert ref station reason => be16 ref ++ be16 station ++ be8 reason.code
  | .disconnect ref => be16 ref

/-- The frame of an outbound message: kind, length, body (R186). -/
def Msg.frame (m : Msg) : List Byte := requestFrame m.kindCode m.body

/-! ## Console bus -/

/-- Lamp states (R206). -/
def Lamp.code : Lamp → Nat
  | .dark => 0
  | .lit => 1
  | .slow => 2
  | .fast => 3
  | .wink => 4
  | .double => 5
  | .stutter => 6

/-- Availability lamp states (R206). -/
def Availability.code : Availability → Nat
  | .signedOut => 0
  | .ready => 1
  | .onBreak => 2

/-- Group lamp states (R206). -/
def GroupLamp.code : GroupLamp → Nat
  | .dark => 0
  | .lit => 1
  | .flash => 2

/-- Tones (R206). -/
def Tone.code : Tone → Nat
  | .error => 1
  | .notice => 2

/-- Notices; 0 is none (R206). -/
def noticeCode : Option Notice → Nat
  | none => 0
  | some .noCall => 1
  | some .callerCleared => 2
  | some .callTaken => 3
  | some .screened => 4
  | some .refused => 5
  | some .destCleared => 6
  | some .noAnswer => 7
  | some .campersWaiting => 8
  | some .allBusy => 9

/-- The tag field: its length and 12 characters padded with blanks (R206). -/
def tagBytes (tag : Option (List Nat)) : List Byte :=
  let chars := tag.getD []
  be8 chars.length ++ ((chars ++ List.replicate 12 0x20).take 12).map (BitVec.ofNat 8)

/-- The talk loop and the panel fields. A blank panel has talk loop 0 and 26 ignored bytes, whose values are free; `draw` says
which poll carries them (log 8). -/
def panelBytes (draw : Nat) : Option Panel → List Byte
  | none => be8 0 ++ (List.range 26).map (Config.ignoredPanelByte draw)
  | some q =>
    be8 q.loop ++ be8 q.originKind.code ++ be16 q.originNum ++ tagBytes q.tag ++ be8 q.presentedClass
      ++ be8 (if q.extending then 2 else 1) ++ be16 q.age ++ be16 (optStation q.curDest) ++ be16 (optStation q.prevDest)
      ++ be8 (progressCode q.progress) ++ be8 q.recallCount

/-- A message item (R206). -/
def ConMsg.item (draw : Nat) : ConMsg → List Byte
  | .lamp which state => be8 1 ++ be8 which ++ be8 state.code
  | .availability state => be8 1 ++ be8 8 ++ be8 state.code
  | .display d => be8 2 ++ panelBytes draw d.panel ++ be16 (optStation d.dialled) ++ be8 (noticeCode d.notice)
  | .tone t => be8 3 ++ be8 t.code
  | .group g l n => be8 4 ++ be8 g ++ be8 l.code ++ be16 n

/-- A frame on the console bus: address, control, length, items, check byte (R206). -/
def busFrame (address control : Nat) (items : List Byte) : List Byte :=
  let front := be8 address ++ be8 control ++ be8 items.length ++ items
  front ++ [checkByte front]

/-- The control byte of a poll: OUT, ACK, HOLD-KEYS and SYNC in bits 0 to 3 (R199, R206). R206 gives bits 7 to 4 no meaning:
they are free (DESIGN CHOICE, log 25). -/
def pollControl (draw : Nat) (out ack holdKeys sync : Bool) : Nat :=
  bit out 1 + bit ack 2 + bit holdKeys 4 + bit sync 8 + 16 * (Config.pollUnusedBits draw).toNat

end Sys2Proof.Machine
end

