-- ==== Sys2Proof/Machine/Reset.lean ====
section
/-! DEFINITION. HARDWARE_RESET, RESET_N_RELEASE, START_UP_END, TIME_COUNT_TICK and RESTART (chapter 11; R143). -/

namespace Sys2Proof.Machine

/-- HARDWARE_RESET (R211): every state takes its hardware-reset value. The queue of commands, what the
host says of its transactions and the count of free values are the model's and stay (log 4, log 9). -/
def execHardwareReset (s : State) : Host.Outcome State Fault Refusal :=
  .next { State.reset with pending := s.pending, overlaps := s.overlaps, freeDraws := s.freeDraws }

/-- RESET_N_RELEASE (R211, R212): start-up begins. -/
def execResetNRelease (s : State) : Host.Outcome State Fault Refusal :=
  .next (if s.phase = .inReset then { s with phase := .starting } else s)

/-- The enabled positions, in increasing number (R197). -/
def enabledPositions (s : State) : List Nat := positionNumbers.filter (fun p => (s.pos p).enabled)

/-- START_UP_END (R212): STARTING clears and the first poll cycle begins. -/
def execStartUpEnd (s : State) : Host.Outcome State Fault Refusal :=
  .next (if s.phase = .starting then { s.begun with phase := .running, toPoll := enabledPositions s } else s)

/-- One tenth passes (R143); past the largest count the value is free (log 9). -/
def tick (s : State) : State :=
  if s.timeCount < Config.maxTime then { s with timeCount := s.timeCount + 1 }
  else { s with timeCount := (Config.timeCountPastMax s.freeDraws).toNat, freeDraws := s.freeDraws + 1 }

/-- TIME_COUNT_TICK (R143); the count stands at 0 while RESET_N is low (R211). -/
def execTimeCountTick (s : State) : Host.Outcome State Fault Refusal := .next (insideEvent tick s)

/-- A position record after RESTART (R82, R198). -/
def restartPosition (q : Position) : Position :=
  { q with avail := .signedOut, loops := [], talkLoop := none, offer := none, dialled := none, idleSince := 0,
           releaseList := [], notice := none, intake := [] }

/-- A group record after RESTART (R52, R183). -/
def restartGroup (r : GroupRecord) : GroupRecord :=
  { r with queue := [], mode := .night, sweep := .idle, pairingDue := false }

/-- A station entry after RESTART (R123). -/
def restartStation (e : Station) : Station := { e with campList := [], ring := none }

/-- A slot after RESTART (R26). -/
def restartSlot (x : Slot) : Slot := { x with call := none }

/-- Every block after RESTART (R213), before the consoles are refreshed. -/
def restartState (s : State) : State :=
  { s.mapPositions (fun _ => restartPosition) with
    slots := Tab.mapVals slotReset restartSlot s.slots
    groups := Tab.mapVals groupReset restartGroup s.groups
    stations := Tab.mapVals stationReset restartStation s.stations
    arrivalCounter := 0
    outbound := [answer .restart .ok 0 0]
    waiting := []
    moments := [] }

/-- RESTART as one event: every present position is refreshed to the blank image (R82, R198, R213). -/
def restartEvent (s : State) : State :=
  let t := restartState s
  t.mapPositions (fun p q => if q.present then refreshed t p q else q)

/-- RESTART (R213). -/
def execRestart (s : State) : Host.Outcome State Fault Refusal :=
  .next (atPort (writeRequest .restart restartEvent) s)

end Sys2Proof.Machine
end

