-- ==== Sys2Proof/Machine/ConsoleBus.lean ====
section
/-! DEFINITION. The console bus: POLL_CYCLE, POLL, COUNTED_REPLY, MISSED_POLL and PRESENCE_RESTORE (R197 to R203). A row
that does not fit the exchange in progress changes nothing (log 2). -/

namespace Sys2Proof.Machine

/-- A bus event, which arises only once start-up has ended (R197, R212). -/
def whileRunning (f : State → State) (s : State) : State := if s.phase = .running then f s.begun else s

/-- POLL_CYCLE (R197): a new cycle, once the one before it and its last exchange have ended. -/
def execPollCycle (s : State) : Host.Outcome State Fault Refusal :=
  .next (whileRunning
    (fun s => if s.toPoll = [] ∧ s.exchange = none then { s with toPoll := enabledPositions s } else s) s)

/-- The link state as a poll is sent: a head message that is not in flight goes out under a toggled out sequence
(R199). -/
def Position.sendPoll (q : Position) : Position :=
  if q.buffer.isEmpty || q.inFlight then q else { q with outSeq := !q.outSeq, inFlight := true }

/-- HOLD-KEYS (R199). -/
def holdKeys (p : Nat) (s : State) : Bool := !s.reserveFree || !(s.pos p).intake.isEmpty

/-- The frame of a poll (R199, R206). The ignored panel bytes of a blank call panel are drawn anew for every poll, for one
that carries the message in flight again too, so that a repeat may carry other ignored bytes than the first sending (DESIGN
CHOICE, log 8). -/
def pollFrame (p : Nat) (s : State) : List Byte :=
  busFrame p (pollControl s.freeDraws (s.pos p).sendPoll.outSeq (s.pos p).lastIn (holdKeys p s) (s.pos p).sync)
    (match (s.pos p).buffer with
     | [] => []
     | m :: _ => m.item s.freeDraws)

/-- A poll is sent: its exchange begins (R199). -/
def sendPollTo (p : Nat) (s : State) : State :=
  { s.modPos p Position.sendPoll with
    toPoll := s.toPoll.tail
    exchange := some ⟨p, !(s.pos p).buffer.isEmpty, (s.pos p).sync, holdKeys p s⟩
    bus := pollFrame p s
    freeDraws := s.freeDraws + 1 }

/-- POLL (R199): the position next in the cycle, in increasing number. -/
def execPoll (p : Nat) (s : State) : Host.Outcome State Fault Refusal :=
  .next (whileRunning (fun s => if s.exchange = none ∧ s.toPoll.head? = some p then sendPollTo p s else s) s)

/-- The end of the exchange at position `p`, whose console is `present` or absent. -/
def endExchange (p : Nat) (fits : Position → Bool) (f : Exchange → State → State) (s : State) : State :=
  match s.exchange with
  | none => s
  | some x => if x.pos = p ∧ fits (s.pos p) then f x { s with exchange := none } else s

/-- What the reply confirms: the message and the SYNC of the poll (R200). -/
def Position.confirm (x : Exchange) (q : Position) : Position :=
  { q with missed := 0,
           buffer := if x.message then q.buffer.tail else q.buffer,
           inFlight := q.inFlight && !x.message,
           sync := q.sync && !x.sync }

/-- The events of a reply (R200). -/
def Position.acceptBatch (x : Exchange) (inSeq : Bool) (events : List ConEvent) (q : Position) : Position :=
  if x.holdKeys || inSeq == q.lastIn then q else { q with intake := q.intake ++ events, lastIn := inSeq }

/-- COUNTED_REPLY (R200): a reply that counts at a present console. -/
def execCountedReply (p : Nat) (inSeq : Bool) (events : List ConEvent) (s : State) : Host.Outcome State Fault Refusal :=
  .next (whileRunning (endExchange p (fun q => q.present)
    (fun x s => s.modPos p (fun q => (q.confirm x).acceptBatch x inSeq events))) s)

/-- PRESENCE_RESTORE (R203): a reply that counts at an absent console; its events are dropped. -/
def execPresenceRestore (p : Nat) (inSeq : Bool) (_events : List ConEvent) (s : State) :
    Host.Outcome State Fault Refusal :=
  .next (whileRunning (endExchange p (fun q => !q.present)
    (fun _ s => refreshPosition p (s.modPos p (fun q => { q with missed := 0, present := true, lastIn := inSeq })))) s)

/-- The link state of a console declared absent (R202). -/
def Position.lose (q : Position) : Position :=
  { q with missed := 3, present := false, buffer := [], inFlight := false, sync := true, intake := [] }

/-- Console loss (R62, R202): the events of the intake list, waiting ones too, are not taken. -/
def consoleLoss (p : Nat) (s : State) : State :=
  let t := { s.modPos p Position.lose with waiting := s.waiting.filter (fun w => w ≠ .key p) }
  if (s.pos p).avail.signedIn then leavingEvent p t else t

/-- A missed poll (R202): at a present console the count rises, and at 3 the console is lost; at an absent one it stays
at 3. -/
def missPoll (p : Nat) (s : State) : State :=
  if (s.pos p).present then
    if (s.pos p).missed + 1 < 3 then s.modPos p (fun q => { q with missed := q.missed + 1 }) else consoleLoss p s
  else s.modPos p (fun q => { q with missed := 3 })

/-- MISSED_POLL (R202). -/
def execMissedPoll (p : Nat) (s : State) : Host.Outcome State Fault Refusal :=
  .next (whileRunning (endExchange p (fun _ => true) (fun _ => takeEvent (missPoll p))) s)

end Sys2Proof.Machine
end

