-- ==== Sys2Proof/Machine/Directory.lean ====
section
/-! DEFINITION. STATION_STATE, STATION_BLOCK, BLOCK_UPDATE_STEP and STATION_ATTR (chapter 5). -/

namespace Sys2Proof.Machine

/-- The payload of STATION_STATE OK: before, written, and the list and ring after the update (R110). -/
def stationAnswer (station : Nat) (new : StationState) (before after : State) : Msg :=
  answer .stationState .ok 0 0
    (.stationWritten station (before.station station).state new (after.station station).campList.length
      (after.station station).ring.isSome)

/-- STATION_STATE at the directory (R110). -/
def stationStateEffect (station code : Nat) (s : State) : State :=
  match readStationState code with
  | none => s.emit (answer .stationState .badValue 0 0 (.stationBad station))
  | some new =>
    if isStationNumber station then answerFirst s (stationUpdate station new) (stationAnswer station new s)
    else s.emit (answer .stationState .badValue 0 0 (.stationBad station))

/-- STATION_STATE (R110). -/
def execStationState (station code : Nat) (s : State) : Host.Outcome State Fault Refusal :=
  .next (request .stationState (stationStateEffect station code) s)

/-- The value checks of STATION_BLOCK (R111). -/
def blockValuesOk (first count : Nat) (codes : List Nat) : Bool :=
  isStationNumber first && 1 ≤ count && count ≤ 32 && codes.all (fun c => c ≤ 4)

/-- STATION_BLOCK at the directory: the count applied ends at station 4095 (R111). -/
def stationBlockEffect (first count : Nat) (codes : List Nat) (s : State) : State :=
  if blockValuesOk first count codes then
    let applied := min count (Config.maxStation + 1 - first)
    { s with block := some ⟨first, applied, first, codes.take applied⟩ }
  else s.emit (answer .stationBlock .badValue 0 0 (.stationBad first))

/-- STATION_BLOCK (R111). -/
def execStationBlock (first count : Nat) (codes : List Nat) (s : State) : Host.Outcome State Fault Refusal :=
  .next (request .stationBlock (stationBlockEffect first count codes) s)

/-- The update of one station by its code (R112). -/
def blockStation (station code : Nat) (s : State) : State :=
  match readStationState code with
  | none => s
  | some new => stationUpdate station new s

/-- A block update step (R112): the last one places the closing answer ahead of its station's orders. -/
def blockStepEffect (s : State) : State :=
  match s.block with
  | none => s
  | some b =>
    match b.codes with
    | [] => { s with block := none }
    | [c] =>
      answerFirst { s with block := none } (blockStation b.next c)
        (fun _ => answer .stationBlock .ok 0 0 (.blockClosing b.first b.applied))
    | c :: rest => blockStation b.next c { s with block := some { b with next := b.next + 1, codes := rest } }

/-- BLOCK_UPDATE_STEP (R112): a step of the block update in progress, admitted at the outbound queue. -/
def execBlockUpdateStep (s : State) : Host.Outcome State Fault Refusal :=
  .next (insideEvent (fun s => if s.block.isSome then takeAdmitted .block blockStepEffect s else s) s)

/-- STATION_ATTR at the directory: protected in bit 0, camp-allowed in bit 1 (R113, R196). -/
def stationAttrEffect (station flags : Nat) (s : State) : State :=
  if isStationNumber station then
    (s.modStation station (fun e => { e with prot := flagBit flags 0, campAllowed := flagBit flags 1 })).emit
      (answer .stationAttr .ok 0 0 (.attrWritten station (flagBit flags 0) (flagBit flags 1)))
  else s.emit (answer .stationAttr .badValue 0 0 (.stationBad station))

/-- STATION_ATTR (R113). -/
def execStationAttr (station flags : Nat) (s : State) : Host.Outcome State Fault Refusal :=
  .next (request .stationAttr (stationAttrEffect station flags) s)

end Sys2Proof.Machine
end

