-- ==== Sys2Proof/Machine/Reports.lean ====
section
/-! DEFINITION. RING_RESULT (R91 to R95, R133 to R135) and DIVERT_RESULT (R150 to R152). -/

namespace Sys2Proof.Machine

/-- The record's progress admits the outcome (R91, R92, R95, R133). -/
def admitsOutcome (c : CallRecord) (o : RingOutcome) : Bool :=
  match c.state, c.progress with
  | .extending, some .pending | .extending, some .ringing => true
  | .extending, some .answered => o = .gone
  | .ringingAway, some .pending | .ringingAway, some .ringing => true
  | _, _ => false

/-- A report that is not LATE (R91). -/
def ringInTime (c : CallRecord) (attempt : Nat) (o : RingOutcome) : Bool := c.attempt == attempt && admitsOutcome c o

/-- Progress becomes RINGING (R92, R95). -/
def setRinging (c : CallRecord) (s : State) : State := s.modCall c.ref (fun c => { c with progress := some .ringing })

/-- A report at an EXTENDING call (R92 to R94). -/
def ringExtending (c : CallRecord) (o : RingOutcome) (s : State) : State :=
  match o with
  | .ringing =>
    if c.mode = .blind ∧ c.progress = some .pending then blindRelease c (setRinging c s) else setRinging c s
  | .answered => s.modCall c.ref (fun c => { c with progress := some .answered, deadline := none })
  | .busy =>
    (attachSource c s).modCall c.ref (fun c =>
      { c with progress := some .busy, talkSide := some .source, deadline := none })
  | .refused => noticeHome c .refused (returnToSource c s)
  | .gone => noticeHome c .destCleared (returnToSource c s)

/-- The conditions of automatic camp-on: camp-allowed, and room at the station and in the pool (R130). -/
def campConditions (st : Nat) (s : State) : Bool := (s.station st).campAllowed && hasRoom st s

/-- A report at a call ringing away that is not from camp (R95, R130). -/
def ringAway (c : CallRecord) (o : RingOutcome) (s : State) : State :=
  match o with
  | .ringing => setRinging c s
  | .answered => bridgeCall c s
  | .busy => if campConditions c.dest s then campJoin c.ref s else leaveCampOn c.ref s
  | .refused | .gone => takeRecall c.ref s

/-- A report at a camp ring (R133 to R135). -/
def ringCamp (c : CallRecord) (o : RingOutcome) (s : State) : State :=
  match o with
  | .ringing => setRinging c s
  | .answered => bridgeCall c (clearRing c.dest s)
  | .busy => returnCampRing c.ref s
  | .refused | .gone => failCampRing c.ref s

/-- What a report in time does (R92, R95, R133). -/
def ringEffect (c : CallRecord) (o : RingOutcome) (s : State) : State :=
  if c.state = .extending then ringExtending c o s else if c.fromCamp then ringCamp c o s else ringAway c o s

/-- The state code in the answer: the state after the report, or the state at retirement (R91, R95). -/
def codeAfter (c : CallRecord) (t : State) : Nat :=
  match t.call c.ref with
  | some d => d.state.code
  | none => c.state.code

/-- A report at a live record (R91). -/
def ringRecord (attempt : Nat) (o : RingOutcome) (c : CallRecord) (s : State) : State :=
  if ringInTime c attempt o then
    answerFirst s (ringEffect c o) (fun t => answer .ringResult .ok c.ref (codeAfter c t))
  else s.emit (answer .ringResult .late c.ref c.state.code)

/-- RING_RESULT at the Transfer Unit (R91). -/
def ringResultEffect (ref attempt outcome : Nat) (s : State) : State :=
  match readOutcome outcome with
  | none => s.emit (answer .ringResult .badValue ref 0)
  | some o => onRecord .ringResult true ref (ringRecord attempt o) s

/-- RING_RESULT (R91). -/
def execRingResult (ref attempt outcome : Nat) (s : State) : Host.Outcome State Fault Refusal :=
  .next (request .ringResult (ringResultEffect ref attempt outcome) s)

/-- A failed divert returns the call to its queue, flagged and in warning, with no deadline (R152, R153). -/
def divertFailed (c : CallRecord) (s : State) : State :=
  reinsert c.ref (s.modCall c.ref (fun c => { c with divertFailed := true, warning := true, nightBound := false }))

/-- A report at a live record (R150): 0 OK, 1 FAILED. -/
def divertRecord (outcome : Nat) (c : CallRecord) (s : State) : State :=
  if c.state = .diverting then
    if outcome = 0 then (retire c.ref s).emit (answer .divertResult .ok c.ref CallState.diverting.code)
    else (divertFailed c s).emit (answer .divertResult .ok c.ref CallState.queued.code)
  else s.emit (answer .divertResult .late c.ref c.state.code)

/-- DIVERT_RESULT at the Supervision Unit (R150). -/
def divertResultEffect (ref outcome : Nat) (s : State) : State :=
  if 1 < outcome then s.emit (answer .divertResult .badValue ref 0)
  else onRecord .divertResult true ref (divertRecord outcome) s

/-- DIVERT_RESULT (R150). -/
def execDivertResult (ref outcome : Nat) (s : State) : Host.Outcome State Fault Refusal :=
  .next (request .divertResult (divertResultEffect ref outcome) s)

end Sys2Proof.Machine
end

