-- ==== Sys2Proof/Machine/Keys.lean ====
section
/-! DEFINITION. Keys and dial events at a position (R57 to R61, R67 to R75, R84, R85, R96 to R99, R117 to R119, R129), and
how they are taken from the intake list (R201). -/

namespace Sys2Proof.Machine

/-! ## What a key does -/

/-- What a position makes of a key (R57, R84). -/
inductive KeyOutcome where
  | accepted (s : State)
  | refused
  /-- A HUNT whose search gives no station. -/
  | refusedAllBusy

/-- A position whose notice an accepted key has cleared, before the key's own effects (R80). -/
def noticeCleared (p : Nat) (s : State) : State := (s.setNotice p none).note p

/-- A key at position `p`: an accepted key clears the notice before its own effects; a refused one draws the ERROR tone
and changes nothing else, but that ALL BUSY sets the notice (R57, R80). -/
def keyEffect (p : Nat) (key : State → KeyOutcome) (s : State) : State :=
  match key (noticeCleared p s) with
  | .accepted t => t
  | .refused => s.tone p .error
  | .refusedAllBusy => (s.setNotice p (some .allBusy)).tone p .error

/-- A key that is refused at a SIGNED_OUT position (R57). -/
def whenSignedIn (p : Nat) (key : State → KeyOutcome) (s : State) : KeyOutcome :=
  if (s.pos p).avail.signedIn then key s else .refused

/-- A key on the talk call, refused on an empty talk path. -/
def onTalkCall (p : Nat) (key : CallRecord → State → KeyOutcome) (s : State) : KeyOutcome :=
  match talkCall p s with
  | none => .refused
  | some c => key c s

/-! ### ANSWER, LOOP, HOLD, RELEASE, DIAL (section 3.3) -/

/-- A pull (R48, R71): the chosen call in the lowest free loop, or NO CALL. -/
def pull (p : Nat) (s : State) : State :=
  match selectCall (s.pos p).group s, (s.pos p).freeLoops.head? with
  | some c, some l => takeOntoTalkPath p c.ref l (takeChosen (s.pos p).group c s)
  | _, _ => (s.setNotice p (some .noCall)).tone p .error

/-- The pending offer is taken in the loop reserved for it, and then ends (R54, R71). -/
def takeOffer (p ref : Nat) (s : State) : State :=
  match (s.pos p).emptyLoops with
  | [] => s
  | l :: _ => ((takeOntoTalkPath p ref l s).note p).modPos p (fun q => { q with offer := none })

/-- What an accepted ANSWER takes (R71). -/
def answerTakes (p : Nat) (s : State) : State :=
  match (s.pos p).offer with
  | some ref => takeOffer p ref s
  | none =>
    match recallingLoop p s with
    | some (l, ref) => takeOntoTalkPath p ref l s
    | none => pull p s

/-- ANSWER would find neither an offer nor a RECALLING call nor a free loop (R70). -/
def nothingToAnswer (p : Nat) (s : State) : Bool :=
  (s.pos p).offer.isNone && (recallingLoop p s).isNone && (s.pos p).freeLoops.isEmpty

/-- ANSWER (R70). -/
def answerKey (p : Nat) : State → KeyOutcome := whenSignedIn p (fun s =>
  match clearTalkPath p ((s.modPos p (fun q => { q with avail := .ready })).note p) with
  | none => .refused
  | some t => if nothingToAnswer p t then .refused else .accepted (answerTakes p (t.note p)))

/-- LOOP n (R72). -/
def loopKey (p n : Nat) : State → KeyOutcome := whenSignedIn p (fun s =>
  if 1 ≤ n ∧ n ≤ 6 then
    match (s.pos p).loopAt n with
    | none => .refused
    | some ref =>
      if (s.pos p).talkLoop = some n then .accepted s
      else if (s.pos p).offer.isSome then .refused
      else match clearTalkPath p s with
        | none => .refused
        | some t => .accepted (takeOntoTalkPath p ref n (t.note p))
  else .refused)

/-- HOLD (R73). -/
def holdKey (p : Nat) : State → KeyOutcome := whenSignedIn p (onTalkCall p (fun c s =>
  if c.state = .talking then .accepted (holdCall p c.ref s) else .refused))

/-- RELEASE (R74, R98, R99). -/
def releaseKey (p : Nat) : State → KeyOutcome := whenSignedIn p (fun s =>
  match talkCall p s with
  | none => .accepted s
  | some c =>
    if c.state = .extending then
      match releaseExtend c s with
      | none => .refused
      | some t => .accepted t
    else .accepted (leaveAndRetire c.ref (s.emit (.disconnect c.ref))))

/-- DIAL (R75). -/
def dialKey (p station : Nat) : State → KeyOutcome := whenSignedIn p (fun s =>
  if isStationNumber station then .accepted (s.modPos p (fun q => { q with dialled := some station })) else .refused)

/-! ### Extends (R84, R85) -/

/-- A talk call from which an extend key is accepted (R84). -/
def CallRecord.extendable (c : CallRecord) : Bool :=
  c.state == .talking || (c.state == .extending && c.progress == some .busy)

/-- EXTEND and EXTEND_BLIND, which give their mode under SELECT (R84 to R86). -/
def extendKey (p : Nat) (byKey : Mode) : State → KeyOutcome := whenSignedIn p (onTalkCall p (fun c s =>
  match (s.pos p).dialled with
  | none => .refused
  | some st => if c.extendable then .accepted (startExtend p c st byKey s) else .refused))

/-- RETRY: the call's current destination, and its mode under SELECT (R84 to R86). -/
def retryKey (p : Nat) : State → KeyOutcome := whenSignedIn p (onTalkCall p (fun c s =>
  match c.curDest with
  | none => .refused
  | some st => if c.extendable then .accepted (startExtend p c st c.mode s) else .refused))

/-- How many stations a range holds (R116). -/
def HuntRange.size (r : HuntRange) : Nat := (r.first - r.last) + (r.last - r.first) + 1

/-- The place of a station in range order (R116). -/
def HuntRange.placeOf (r : HuntRange) (st : Nat) : Nat :=
  match r.dir with
  | .up => st - r.first
  | .down => r.first - st

/-- The station at a place in range order; the station after the last is the first (R116). -/
def HuntRange.stationAt (r : HuntRange) (i : Nat) : Nat :=
  match r.dir with
  | .up => r.first + i % r.size
  | .down => r.first - i % r.size

/-- The stations in the order a search examines them (R117). -/
def HuntRange.order (r : HuntRange) : List Nat :=
  match r.mode with
  | .linear => (List.range r.size).map r.stationAt
  | .circular => (List.range r.size).map (fun i => r.stationAt (r.placeOf r.next + 1 + i))

/-- A station qualifies (R118). -/
def qualifies (s : State) (st : Nat) : Bool := (s.station st).state == .idle && !hasCampers st s

/-- A hunt search (R117). -/
def huntSearch (r : HuntRange) (s : State) : Option Nat := r.order.find? (qualifies s)

/-- The range after a search has chosen a station (R117). -/
def HuntRange.chose (r : HuntRange) (st : Nat) : HuntRange :=
  match r.mode with
  | .linear => r
  | .circular => { r with next := st }

/-- HUNT h (R84, R117, R119). -/
def huntKey (p h : Nat) : State → KeyOutcome := whenSignedIn p (onTalkCall p (fun c s =>
  if h ≤ 15 ∧ c.extendable then
    match s.huntRange h with
    | none => .refusedAllBusy
    | some r =>
      match huntSearch r s with
      | none => .refusedAllBusy
      | some st => .accepted (startExtend p c st .screened (s.setHunt h (some (r.chose st))))
  else .refused))

/-! ### CANCEL, SWAP, CAMP -/

/-- CANCEL (R97). -/
def cancelKey (p : Nat) : State → KeyOutcome := whenSignedIn p (onTalkCall p (fun c s =>
  if c.state = .extending then .accepted (returnToSource c (dropLeg c s)) else .refused))

/-- The other side of a call (R96). -/
def otherSide : Option Side → Side
  | some .dest => .source
  | _ => .dest

/-- SWAP (R96). -/
def swapKey (p : Nat) : State → KeyOutcome := whenSignedIn p (onTalkCall p (fun c s =>
  if c.state = .extending ∧ c.progress = some .answered then
    .accepted ((s.modCall c.ref (fun c => { c with talkSide := some (otherSide c.talkSide) })).emit
      (.attach c.ref p (otherSide c.talkSide)))
  else .refused))

/-- CAMP (R129). -/
def campKey (p : Nat) : State → KeyOutcome := whenSignedIn p (onTalkCall p (fun c s =>
  if c.state = .extending ∧ c.progress = some .busy ∧ campConditions c.dest s then
    .accepted (campJoin c.ref (leaveLoop c.ref (s.emit (.hold c.ref))))
  else .refused))

/-! ### Availability (section 3.2) -/

/-- READY (R60). -/
def readyKey (p : Nat) (s : State) : KeyOutcome :=
  if (s.pos p).avail = .onBreak then .accepted (s.modPos p (fun q => { q with avail := .ready })) else .refused

/-- BREAK (R59). -/
def breakKey (p : Nat) (s : State) : KeyOutcome :=
  if (s.pos p).avail = .ready then
    .accepted (withdrawOffer p ((s.modPos p (fun q => { q with avail := .onBreak })).note p))
  else .refused

/-- SIGN_IN (R58). -/
def signInKey (p : Nat) (s : State) : KeyOutcome :=
  if (s.pos p).avail = .signedOut ∧ (s.pos p).releaseList = [] then
    .accepted (dayEntry (s.pos p).group (s.modPos p (fun q => { q with avail := .ready, idleSince := s.timeCount })))
  else .refused

/-- SIGN_OUT (R61). -/
def signOutKey (p : Nat) : State → KeyOutcome := whenSignedIn p (fun s =>
  if (s.pos p).talkLoop.isSome then .refused else .accepted (leavingEvent p s))

/-- A KEY event by its code (R201); a code of no key is refused. -/
def keyOf (p code arg : Nat) : State → KeyOutcome :=
  match code with
  | 1 => answerKey p
  | 2 => loopKey p arg
  | 3 => holdKey p
  | 4 => releaseKey p
  | 5 => extendKey p .screened
  | 6 => extendKey p .blind
  | 7 => retryKey p
  | 8 => huntKey p arg
  | 9 => cancelKey p
  | 10 => swapKey p
  | 11 => campKey p
  | 12 => readyKey p
  | 13 => breakKey p
  | 14 => signInKey p
  | 15 => signOutKey p
  | _ => fun _ => .refused

/-! ## How keys are taken (R201) -/

/-- The event at the head of the intake list leaves it as it is taken. -/
def popIntake (p : Nat) (s : State) : State := s.modPos p (fun q => { q with intake := q.intake.tail })

/-- The event at the head is taken whole. -/
def takeKey (p : Nat) (key : State → KeyOutcome) (s : State) : State :=
  takeEvent (fun s => keyEffect p key (popIntake p s)) s

/-- The event at the head of a position's intake list. -/
def headEvent (p : Nat) (s : State) : Option ConEvent := (s.pos p).intake.head?

/-- A KEY row: it stands for the KEY at the head of the list, which is admitted at the outbound queue (R194, R201). With
another event at the head the row changes nothing (log 15). -/
def keyStep (p : Nat) (fits : Nat → Nat → Bool) (key : State → KeyOutcome) (s : State) : State :=
  match headEvent p s with
  | some (.key code arg) => if fits code arg then (if s.reserveFree then takeKey p key s else joinWaiting (.key p) s) else s
  | _ => s

/-- A KEY row whose argument is ignored (R201). -/
def plainKey (p code : Nat) (key : State → KeyOutcome) : State → State :=
  insideEvent (keyStep p (fun c _ => c == code) key)

/-- A KEY that waited for the reserve, taken from the head of its list (R194, R201). -/
def takeWaitingKey (p : Nat) (s : State) : State :=
  match headEvent p s with
  | some (.key code arg) => takeKey p (keyOf p code arg) s
  | _ => s

/-- A DIAL event at the head of the list is taken at once (R201). -/
def dialStep (p station : Nat) (s : State) : State :=
  if headEvent p s = some (.dial station) then takeKey p (dialKey p station) s else s

/-! ## The rows -/

/-- ANSWER (R70). -/
def execAnswer (p : Nat) (s : State) : Host.Outcome State Fault Refusal := .next (plainKey p 1 (answerKey p) s)

/-- LOOP n (R72). -/
def execLoop (p arg : Nat) (s : State) : Host.Outcome State Fault Refusal :=
  .next (insideEvent (keyStep p (fun c a => c == 2 && a == arg) (loopKey p arg)) s)

/-- HOLD (R73). -/
def execHold (p : Nat) (s : State) : Host.Outcome State Fault Refusal := .next (plainKey p 3 (holdKey p) s)

/-- RELEASE (R74). -/
def execRelease (p : Nat) (s : State) : Host.Outcome State Fault Refusal := .next (plainKey p 4 (releaseKey p) s)

/-- EXTEND (R84). -/
def execExtend (p : Nat) (s : State) : Host.Outcome State Fault Refusal := .next (plainKey p 5 (extendKey p .screened) s)

/-- EXTEND_BLIND (R84). -/
def execExtendBlind (p : Nat) (s : State) : Host.Outcome State Fault Refusal := .next (plainKey p 6 (extendKey p .blind) s)

/-- RETRY (R84). -/
def execRetry (p : Nat) (s : State) : Host.Outcome State Fault Refusal := .next (plainKey p 7 (retryKey p) s)

/-- HUNT h (R119). -/
def execHunt (p arg : Nat) (s : State) : Host.Outcome State Fault Refusal :=
  .next (insideEvent (keyStep p (fun c a => c == 8 && a == arg) (huntKey p arg)) s)

/-- CANCEL (R97). -/
def execCancel (p : Nat) (s : State) : Host.Outcome State Fault Refusal := .next (plainKey p 9 (cancelKey p) s)

/-- SWAP (R96). -/
def execSwap (p : Nat) (s : State) : Host.Outcome State Fault Refusal := .next (plainKey p 10 (swapKey p) s)

/-- CAMP (R129). -/
def execCamp (p : Nat) (s : State) : Host.Outcome State Fault Refusal := .next (plainKey p 11 (campKey p) s)

/-- READY (R60). -/
def execReady (p : Nat) (s : State) : Host.Outcome State Fault Refusal := .next (plainKey p 12 (readyKey p) s)

/-- BREAK (R59). -/
def execBreakKey (p : Nat) (s : State) : Host.Outcome State Fault Refusal := .next (plainKey p 13 (breakKey p) s)

/-- SIGN_IN (R58). -/
def execSignIn (p : Nat) (s : State) : Host.Outcome State Fault Refusal := .next (plainKey p 14 (signInKey p) s)

/-- SIGN_OUT (R61). -/
def execSignOut (p : Nat) (s : State) : Host.Outcome State Fault Refusal := .next (plainKey p 15 (signOutKey p) s)

/-- A KEY with a code of no key (R201). -/
def execUnknownKey (p code arg : Nat) (s : State) : Host.Outcome State Fault Refusal :=
  .next (insideEvent (keyStep p (fun c a => c == code && a == arg && !isKnownKey c) (fun _ => .refused)) s)

/-- DIAL (R75). -/
def execDial (p station : Nat) (s : State) : Host.Outcome State Fault Refusal := .next (insideEvent (dialStep p station) s)

end Sys2Proof.Machine
end

