-- ==== Sys2Proof/Machine/Steps.lean ====
section
/-! DEFINITION. The part's own events: the nine expiries (R144 to R147), PAIRING (R42), SWEEP_STEP (R177, R178) and
RELEASE_STEP (R63 to R65). A command for an event that is not due changes nothing (log 2). -/

namespace Sys2Proof.Machine

/-! ## Expiries -/

/-- Taking an expiry first clears the deadline (R146). -/
def clearDeadline (ref : Nat) (s : State) : State := s.modCall ref (fun c => { c with deadline := none })

/-- The expiry of a deadline of kind `kind` at slot `slot`, once it has fallen due, at a record that `fits`; admitted at
the outbound queue, and deferred while the reserve is short (R146, R147). -/
def expiryStep (slot : Nat) (kind : DeadlineKind) (fits : CallRecord → Bool) (effect : CallRecord → State → State)
    (s : State) : State :=
  match (s.slot slot).call with
  | none => s
  | some c =>
    match c.deadline with
    | none => s
    | some d =>
      if d.kind = kind ∧ fits c ∧ d.due s.timeCount then
        takeAdmitted (.expiry c.ref d) (fun s => effect c (clearDeadline c.ref s)) s
      else s

/-- QUEUE: the call enters warning (R154). -/
def queueExpiryEffect (c : CallRecord) (s : State) : State :=
  s.modCall c.ref (fun c => { c with warning := true, deadline := s.deadlineNow .warning s.timers.warning })

/-- WARNING: an OVERFLOW divert, or the call waits with no deadline (R155). -/
def warningExpiryEffect (c : CallRecord) (s : State) : State :=
  match divertStation (s.group c.group).overflow c with
  | some st => divertQueued c.group c.ref st .overflow s
  | none => s

/-- OFFER: the call is reinserted and the position goes on BREAK (R45). -/
def offerExpiryEffect (c : CallRecord) (s : State) : State :=
  match offeredTo c.ref s with
  | none => reinsert c.ref s
  | some p => reinsert c.ref (s.modPos p (fun q => { q with offer := none, avail := .onBreak }))

/-- HOLD: a recall (R162). -/
def holdExpiryEffect (c : CallRecord) (s : State) : State := takeRecall c.ref s

/-- RECALL_RING: the loop is emptied and the call takes the stage-2 requeue (R164). -/
def recallRingExpiryEffect (c : CallRecord) (s : State) : State := stage2 c.ref (leaveLoop c.ref s)

/-- NO_ANSWER of an EXTENDING call: DROP, return to the source, notice NO ANSWER (R102). -/
def noAnswerExtendingEffect (c : CallRecord) (s : State) : State :=
  noticeHome c .noAnswer (returnToSource c (s.emit (.drop c.ref c.attempt)))

/-- NO_ANSWER of a blind-released call: DROP, recall (R103). -/
def noAnswerRingingAwayEffect (c : CallRecord) (s : State) : State := takeRecall c.ref (s.emit (.drop c.ref c.attempt))

/-- NO_ANSWER of a camp ring: DROP, the ring fails (R135). -/
def campRingNoAnswerEffect (c : CallRecord) (s : State) : State := failCampRing c.ref (s.emit (.drop c.ref c.attempt))

/-- CAMP: the call leaves the list and takes a recall (R136). -/
def campExpiryEffect (c : CallRecord) (s : State) : State := leaveCampOn c.ref (leaveCampList c.dest c.ref s)

/-- QUEUE_EXPIRY (R154). -/
def execQueueExpiry (slot : Nat) (s : State) : Host.Outcome State Fault Refusal :=
  .next (insideEvent (expiryStep slot .queue (fun c => c.state = .queued) queueExpiryEffect) s)

/-- WARNING_EXPIRY (R155). -/
def execWarningExpiry (slot : Nat) (s : State) : Host.Outcome State Fault Refusal :=
  .next (insideEvent (expiryStep slot .warning (fun c => c.state = .queued) warningExpiryEffect) s)

/-- OFFER_EXPIRY (R45). -/
def execOfferExpiry (slot : Nat) (s : State) : Host.Outcome State Fault Refusal :=
  .next (insideEvent (expiryStep slot .offer (fun c => c.state = .offered) offerExpiryEffect) s)

/-- HOLD_EXPIRY (R162). -/
def execHoldExpiry (slot : Nat) (s : State) : Host.Outcome State Fault Refusal :=
  .next (insideEvent (expiryStep slot .hold (fun c => c.state = .held) holdExpiryEffect) s)

/-- RECALL_RING_EXPIRY (R164). -/
def execRecallRingExpiry (slot : Nat) (s : State) : Host.Outcome State Fault Refusal :=
  .next (insideEvent (expiryStep slot .recallRing (fun c => c.state = .recalling) recallRingExpiryEffect) s)

/-- NO_ANSWER_EXPIRY_EXTENDING (R102). -/
def execNoAnswerExpiryExtending (slot : Nat) (s : State) : Host.Outcome State Fault Refusal :=
  .next (insideEvent (expiryStep slot .noAnswer (fun c => c.state = .extending) noAnswerExtendingEffect) s)

/-- NO_ANSWER_EXPIRY_RINGING_AWAY (R103). -/
def execNoAnswerExpiryRingingAway (slot : Nat) (s : State) : Host.Outcome State Fault Refusal :=
  .next (insideEvent
    (expiryStep slot .noAnswer (fun c => c.state = .ringingAway && !c.fromCamp) noAnswerRingingAwayEffect) s)

/-- CAMP_RING_NO_ANSWER_EXPIRY (R135). -/
def execCampRingNoAnswerExpiry (slot : Nat) (s : State) : Host.Outcome State Fault Refusal :=
  .next (insideEvent
    (expiryStep slot .noAnswer (fun c => c.state = .ringingAway && c.fromCamp) campRingNoAnswerEffect) s)

/-- CAMP_EXPIRY (R136). -/
def execCampExpiry (slot : Nat) (s : State) : Host.Outcome State Fault Refusal :=
  .next (insideEvent (expiryStep slot .camp (fun c => c.state = .camped) campExpiryEffect) s)

/-- The effect of an expiry that waited for the reserve, by the kind of its deadline (R144). -/
def expiryEffect (kind : DeadlineKind) (c : CallRecord) (s : State) : State :=
  match kind with
  | .queue => queueExpiryEffect c s
  | .warning => warningExpiryEffect c s
  | .offer => offerExpiryEffect c s
  | .hold => holdExpiryEffect c s
  | .recallRing => recallRingExpiryEffect c s
  | .camp => campExpiryEffect c s
  | .noAnswer =>
    if c.state = .extending then noAnswerExtendingEffect c s
    else if c.fromCamp then campRingNoAnswerEffect c s
    else noAnswerRingingAwayEffect c s

/-- The states in which a deadline of a kind runs (R144). -/
def runsIn (kind : DeadlineKind) (st : CallState) : Bool :=
  match kind with
  | .queue | .warning => st == .queued
  | .offer => st == .offered
  | .hold => st == .held
  | .recallRing => st == .recalling
  | .noAnswer => st == .extending || st == .ringingAway
  | .camp => st == .camped

/-- A deferred expiry is taken if its record still holds the deadline that waited (R146, R147). -/
def takeWaitingExpiry (ref : Nat) (d : Deadline) (s : State) : State :=
  match s.call ref with
  | none => s
  | some c =>
    if c.ref = ref ∧ c.deadline = some d ∧ runsIn d.kind c.state ∧ d.due s.timeCount then
      takeEvent (fun s => expiryEffect d.kind c (clearDeadline ref s)) s
    else s

/-! ## PAIRING (R42) -/

/-- The pairing that is due is taken (R42). -/
def pairingEffect (g : Nat) (s : State) : State :=
  pairUp g 8 (s.modGroup g (fun r => { r with pairingDue := false }))

/-- A pairing, where one is due in the group; in a PULL group none is taken (R42). -/
def pairingStep (g : Nat) (s : State) : State :=
  if (s.group g).pairingDue ∧ (s.group g).offerMode = .offer then takeEvent (pairingEffect g) s else s

/-- PAIRING (R42). -/
def execPairing (g : Nat) (s : State) : Host.Outcome State Fault Refusal := .next (insideEvent (pairingStep g) s)

/-! ## SWEEP_STEP (R177, R178) -/

/-- The night-bound call of lowest arrival sequence (R178). -/
def oldestNightBound (g : Nat) (s : State) : Option CallRecord :=
  bestBy (fun a b => a.arrivalSeq < b.arrivalSeq) ((queueCalls g s).filter (fun c => c.nightBound))

/-- The next step time, while a night-bound call remains (R178). -/
def scheduleSweep (g : Nat) (s : State) : State :=
  if hasNightBound g s then s.modGroup g (fun r => { r with sweep := .active (s.timeCount + s.timers.sweep) }) else s

/-- What a sweep step does (R178). -/
def sweepEffect (g : Nat) (s : State) : State :=
  match (s.group g).night with
  | none => clearMarks g s
  | some st =>
    match oldestNightBound g s with
    | none => settleSweep g s
    | some c => scheduleSweep g (divertQueued g c.ref st .night s)

/-- The sweep step of the group's next step time, once that has been reached; it waits under that time while the reserve is
short (R147, R177). -/
def sweepStep (g : Nat) (s : State) : State :=
  match (s.group g).sweep with
  | .idle => s
  | .active due => if due ≤ s.timeCount then takeAdmitted (.sweep g due) (sweepEffect g) s else s

/-- A sweep step that waited is taken if the group's sweep still has the next step time for which it waited; a sweep that has
ended since, and one that has started anew, take no step in its place (R170, R177). -/
def takeWaitingSweep (g due : Nat) (s : State) : State :=
  if (s.group g).sweep = .active due ∧ due ≤ s.timeCount then takeEvent (sweepEffect g) s else s

/-- SWEEP_STEP (R178). -/
def execSweepStep (g : Nat) (s : State) : Host.Outcome State Fault Refusal := .next (insideEvent (sweepStep g) s)

/-! ## RELEASE_STEP (R63 to R65) -/

/-- The call is released blind by a release step (R65). -/
def releasesBlind (c : CallRecord) : Bool :=
  c.mode = .blind && (c.progress = some .pending || c.progress = some .ringing)

/-- A call leaves its loop with a HOLD order and takes the counted requeue (R65). -/
def holdAndRecall (ref : Nat) (s : State) : State := takeRecall ref (leaveLoop ref (s.emit (.hold ref)))

/-- What a release step does with the call it finds (R64, R65). -/
def releaseCall (c : CallRecord) (s : State) : State :=
  match c.state with
  | .held => takeRecall c.ref (leaveLoop c.ref s)
  | .recalling => stage2 c.ref (leaveLoop c.ref s)
  | .talking => holdAndRecall c.ref s
  | .extending => if releasesBlind c then blindRelease c s else holdAndRecall c.ref (dropLeg c s)
  | _ => s

/-- What a release step does: its entry leaves the list, and the call in that loop is released (R63). -/
def releaseEffect (p : Nat) (s : State) : State :=
  match (s.pos p).releaseList with
  | [] => s
  | l :: rest =>
    let t := s.modPos p (fun q => { q with releaseList := rest })
    match ((s.pos p).loopAt l).bind s.call with
    | none => t
    | some c => releaseCall c t

/-- RELEASE_STEP (R63). -/
def execReleaseStep (p : Nat) (s : State) : Host.Outcome State Fault Refusal :=
  .next (insideEvent
    (fun s => if (s.pos p).releaseList.isEmpty then s else takeAdmitted (.release p) (releaseEffect p) s) s)

end Sys2Proof.Machine
end

