-- ==== Sys2Proof/Machine/Link.lean ====
section
/-! DEFINITION. The control link's own transactions: STATUS_POLL, READ, MALFORMED_REQUEST, LINK_CLEAR (R184 to R190), and
the admission of waiting events that a READ brings about (R186, R194). -/

namespace Sys2Proof.Machine

/-! ## Waiting events (R194) -/

/-- A waiting event is taken, if what it waits to do still stands (R146, R194). -/
def takeWaiting (w : Waiting) (s : State) : State :=
  match w with
  | .expiry ref d => takeWaitingExpiry ref d s
  | .sweep g due => takeWaitingSweep g due s
  | .release p => if (s.pos p).releaseList.isEmpty then s else takeEvent (releaseEffect p) s
  | .scan => if s.scan.isSome then takeEvent scanStepEffect s else s
  | .block => if s.block.isSome then takeEvent blockStepEffect s else s
  | .key p => takeWaitingKey p s

/-- Waiting events are admitted in the order in which they began to wait, each finding the reserve that the earlier ones
left; at most `n` of them (R194). Each may fall inside the next transaction (R194, log 4). -/
def admitWaiting : Nat → State → State
  | 0, s => s
  | n + 1, s =>
    match s.waiting with
    | [] => s
    | w :: rest => if s.reserveFree then admitWaiting n (takeWaiting w { s with waiting := rest }.begun) else s

/-! ## Transactions -/

/-- Zero bytes on SDO. -/
def zeros (n : Nat) : List Byte := List.replicate n 0

/-- STATUS_POLL of `n` bytes (R184, R185): a status byte cut short reports nothing. -/
def statusPollStep (n : Nat) (s : State) : State :=
  match n with
  | 0 => { s.closed with sdo := [] }
  | k + 1 => { shiftStatus s with sdo := openingByte s :: zeros k }

/-- STATUS_POLL (R184). -/
def execStatusPoll (n : Nat) (s : State) : Host.Outcome State Fault Refusal := .next (atPort (statusPollStep n) s)

/-- The message that a READ sends: the head of the queue, unless the queue was empty as the READ began (R186; the moment
is a DESIGN CHOICE, log 23). -/
def readHead (s : State) : Option Msg := if showsAttn s then s.outbound.head? else none

/-- The frame that a READ sends: a message's, or the empty frame (R186). -/
def readFrame : Option Msg → List Byte
  | none => zeros 2
  | some m => m.frame

/-- The message sent leaves the queue once all its bytes have been clocked, and waiting events are admitted (R186,
R194). -/
def removeSent (n : Nat) (sent : Option Msg) (s : State) : State :=
  match sent with
  | none => s
  | some m =>
    if m.frame.length ≤ n then admitWaiting s.waiting.length { s with outbound := s.outbound.tail } else s

/-- A READ that clocks `n` bytes after the status byte (R186). -/
def readStep (n : Nat) (s : State) : State :=
  removeSent n (readHead s)
    { shiftStatus s with sdo := openingByte s :: (readFrame (readHead s) ++ zeros n).take n }

/-- READ (R186). -/
def execRead (n : Nat) (s : State) : Host.Outcome State Fault Refusal := .next (atPort (readStep n) s)

/-- A WRITE with a malformed frame (R188, R189): discarded when the port is not ready, else it locks the link. -/
def malformedStep (s : State) : State :=
  if s.isReady then { shiftStatus s with locked := true } else { shiftStatus s with discarded := true }

/-- MALFORMED_REQUEST (R189). -/
def execMalformedRequest (s : State) : Host.Outcome State Fault Refusal := .next (atPort malformedStep s)

/-- A LINK_CLEAR that the port takes clears the lock and is answered OK (R190). -/
def linkClearStep (s : State) : State :=
  if s.isReady then { shiftStatus s with locked := false }.emit (answer .linkClear .ok 0 0)
  else { shiftStatus s with discarded := true }

/-- LINK_CLEAR (R190). -/
def execLinkClear (s : State) : Host.Outcome State Fault Refusal := .next (atPort linkClearStep s)

end Sys2Proof.Machine
end

