-- ==== Sys2Proof/Machine/Dispatch.lean ====
section
/-! DEFINITION. The effect of each command: one arm for each row of the table. -/

namespace Sys2Proof.Machine

/-- What a command does to everything but the queue of commands. -/
def exec (i : Instr) (s : State) : Host.Outcome State Fault Refusal :=
  match i with
  | .hardwareReset => Sys2Proof.Machine.execHardwareReset s
  | .resetNRelease => Sys2Proof.Machine.execResetNRelease s
  | .startUpEnd => Sys2Proof.Machine.execStartUpEnd s
  | .timeCountTick => Sys2Proof.Machine.execTimeCountTick s
  | .statusPoll bytes => Sys2Proof.Machine.execStatusPoll bytes s
  | .read bytes => Sys2Proof.Machine.execRead bytes s
  | .malformedRequest => Sys2Proof.Machine.execMalformedRequest s
  | .present kind number cls grp tag => Sys2Proof.Machine.execPresent kind number cls grp tag s
  | .cleared ref => Sys2Proof.Machine.execCleared ref s
  | .take selector cond kind value => Sys2Proof.Machine.execTake selector cond kind value s
  | .query ref => Sys2Proof.Machine.execQuery ref s
  | .scan first rep => Sys2Proof.Machine.execScan first rep s
  | .scanStep => Sys2Proof.Machine.execScanStep s
  | .ringResult ref attempt outcome => Sys2Proof.Machine.execRingResult ref attempt outcome s
  | .divertResult ref outcome => Sys2Proof.Machine.execDivertResult ref outcome s
  | .stationState station code => Sys2Proof.Machine.execStationState station code s
  | .stationBlock first count codes => Sys2Proof.Machine.execStationBlock first count codes s
  | .blockUpdateStep => Sys2Proof.Machine.execBlockUpdateStep s
  | .stationAttr station flags => Sys2Proof.Machine.execStationAttr station flags s
  | .configureClass cls base weight overflow => Sys2Proof.Machine.execConfigureClass cls base weight overflow s
  | .configureAgeShift index shift => Sys2Proof.Machine.execConfigureAgeShift index shift s
  | .configureBypassLimit index limit => Sys2Proof.Machine.execConfigureBypassLimit index limit s
  | .configureRecallLimit index limit => Sys2Proof.Machine.execConfigureRecallLimit index limit s
  | .configureGroup grp offerMode policy overflow night sweepPolicy depth => Sys2Proof.Machine.execConfigureGroup grp offerMode policy overflow night sweepPolicy depth s
  | .configurePosition pos enabled grp => Sys2Proof.Machine.execConfigurePosition pos enabled grp s
  | .configureTimers index warning offer hold recallRing noAnswer camp sweep => Sys2Proof.Machine.execConfigureTimers index warning offer hold recallRing noAnswer camp sweep s
  | .configureHunt range configured first last dir mode => Sys2Proof.Machine.execConfigureHunt range configured first last dir mode s
  | .configureUnknownItem item index => Sys2Proof.Machine.execConfigureUnknownItem item index s
  | .restart => Sys2Proof.Machine.execRestart s
  | .linkClear => Sys2Proof.Machine.execLinkClear s
  | .pairing grp => Sys2Proof.Machine.execPairing grp s
  | .queueExpiry slot => Sys2Proof.Machine.execQueueExpiry slot s
  | .warningExpiry slot => Sys2Proof.Machine.execWarningExpiry slot s
  | .offerExpiry slot => Sys2Proof.Machine.execOfferExpiry slot s
  | .holdExpiry slot => Sys2Proof.Machine.execHoldExpiry slot s
  | .recallRingExpiry slot => Sys2Proof.Machine.execRecallRingExpiry slot s
  | .noAnswerExpiryExtending slot => Sys2Proof.Machine.execNoAnswerExpiryExtending slot s
  | .noAnswerExpiryRingingAway slot => Sys2Proof.Machine.execNoAnswerExpiryRingingAway slot s
  | .campRingNoAnswerExpiry slot => Sys2Proof.Machine.execCampRingNoAnswerExpiry slot s
  | .campExpiry slot => Sys2Proof.Machine.execCampExpiry slot s
  | .sweepStep grp => Sys2Proof.Machine.execSweepStep grp s
  | .releaseStep pos => Sys2Proof.Machine.execReleaseStep pos s
  | .pollCycle => Sys2Proof.Machine.execPollCycle s
  | .poll pos => Sys2Proof.Machine.execPoll pos s
  | .countedReply pos inSeq events => Sys2Proof.Machine.execCountedReply pos inSeq events s
  | .missedPoll pos => Sys2Proof.Machine.execMissedPoll pos s
  | .presenceRestore pos inSeq events => Sys2Proof.Machine.execPresenceRestore pos inSeq events s
  | .answer pos => Sys2Proof.Machine.execAnswer pos s
  | .loop pos arg => Sys2Proof.Machine.execLoop pos arg s
  | .hold pos => Sys2Proof.Machine.execHold pos s
  | .release pos => Sys2Proof.Machine.execRelease pos s
  | .extend pos => Sys2Proof.Machine.execExtend pos s
  | .extendBlind pos => Sys2Proof.Machine.execExtendBlind pos s
  | .retry pos => Sys2Proof.Machine.execRetry pos s
  | .hunt pos arg => Sys2Proof.Machine.execHunt pos arg s
  | .cancel pos => Sys2Proof.Machine.execCancel pos s
  | .swap pos => Sys2Proof.Machine.execSwap pos s
  | .camp pos => Sys2Proof.Machine.execCamp pos s
  | .ready pos => Sys2Proof.Machine.execReady pos s
  | .breakKey pos => Sys2Proof.Machine.execBreakKey pos s
  | .signIn pos => Sys2Proof.Machine.execSignIn pos s
  | .signOut pos => Sys2Proof.Machine.execSignOut pos s
  | .unknownKey pos code arg => Sys2Proof.Machine.execUnknownKey pos code arg s
  | .dial pos station => Sys2Proof.Machine.execDial pos station s

end Sys2Proof.Machine
end

