-- ==== Sys2Proof/Safety.lean ====
section
/-! DEFINITION. What the claims speak of: the laws that every step keeps, and the frames that say what an event leaves as
it was. -/

namespace Sys2Proof.Machine

/-! ## Laws of a state -/

/-- No two live records have the same origin (law L1, R5). -/
def OriginsUnique (s : State) : Prop :=
  ∀ m n : Nat, m < Config.slotCount → n < Config.slotCount → ∀ c d : CallRecord,
    (s.slot m).call = some c → (s.slot n).call = some d →
    c.originKind = d.originKind → c.originNum = d.originNum → m = n

/-- Every live record stands in one of the 256 slots and carries its slot's reference; a generation is 0 to 255, and 1
to 255 once the slot has been allocated (R2, R4). -/
def RecordsNamed (s : State) : Prop :=
  ∀ n, (s.slot n).gen ≤ 255 ∧
    ∀ c, (s.slot n).call = some c → n < Config.slotCount ∧ 1 ≤ (s.slot n).gen ∧ c.ref = (s.slot n).gen * 256 + n

/-- The limits lie in their ranges, and no record's counts exceed them (R6, R209; laws L6, L8). -/
def CountsWithinLimits (s : State) : Prop :=
  s.bypassLimit ≤ 8 ∧ 1 ≤ s.recallLimit ∧ s.recallLimit ≤ 7 ∧
    ∀ n c, (s.slot n).call = some c → c.bypass ≤ s.bypassLimit ∧ c.recallCount ≤ s.recallLimit

/-- Every configured number lies in its range (R209). -/
def SettingsInRange (s : State) : Prop :=
  s.ageShift ≤ 15 ∧ (∀ c, (s.cls c).base ≤ 4095) ∧ (∀ g, 1 ≤ (s.group g).alarmDepth ∧ (s.group g).alarmDepth ≤ 64) ∧
    10 ≤ s.timers.warning ∧ s.timers.warning ≤ 600 ∧ 30 ≤ s.timers.offer ∧ s.timers.offer ≤ 300 ∧
    100 ≤ s.timers.hold ∧ s.timers.hold ≤ 6000 ∧ 50 ≤ s.timers.recallRing ∧ s.timers.recallRing ≤ 600 ∧
    50 ≤ s.timers.noAnswer ∧ s.timers.noAnswer ≤ 1200 ∧ 100 ≤ s.timers.camp ∧ s.timers.camp ≤ 3000 ∧
    1 ≤ s.timers.sweep ∧ s.timers.sweep ≤ 50

/-- A pending offer stands at a READY position with an empty talk path only (law L4, R43). -/
def OffersAtReady (s : State) : Prop :=
  ∀ p, (s.pos p).offer.isSome → (s.pos p).avail = .ready ∧ (s.pos p).talkLoop = none

/-- A group is DAY exactly when one of its positions is signed in (law L10, R170). -/
def DayIffStaffed (s : State) : Prop := ∀ g ∈ groupNumbers, (s.group g).mode = .day ↔ staffed g s = true

/-- The consoles that can send keys belong to enabled positions, and a disabled position is signed out (R53, R197,
R198). -/
def ConsolesServed (s : State) : Prop :=
  (∀ p, p ∉ positionNumbers ∨ (s.pos p).enabled = false → (s.pos p).avail = .signedOut ∧ (s.pos p).intake = []) ∧
    (∀ p ∈ s.toPoll, p ∈ positionNumbers ∧ (s.pos p).enabled = true) ∧
    ∀ x, s.exchange = some x → x.pos ∈ positionNumbers ∧ (s.pos x.pos).enabled = true

/-- The outbound queue holds at most 128 messages, and no station more than 3 calls (laws L12, L13). -/
def QueuesBounded (s : State) : Prop :=
  s.outbound.length ≤ Config.outboundCapacity ∧ ∀ st, (s.station st).occupancy ≤ Config.stationRoom

/-- Every table is in its canonical form (log 18). -/
def TablesCanonical (s : State) : Prop :=
  Tab.wf slotReset s.slots ∧ Tab.wf groupReset s.groups ∧ Tab.wf classReset s.classes ∧
    Tab.wf positionReset s.positions ∧ Tab.wf stationReset s.stations ∧ Tab.wf huntReset s.hunts ∧
    ∀ p, Tab.wf loopEmpty (s.pos p).loops

/-- The status byte that a transaction in progress has shown: it shows LOCKED and DISCARDED as they stand, ATTN only while a
message waits, and its low bits are 0 (R185). -/
def OpeningTrue (s : State) : Prop :=
  ∀ b : Byte, s.opened = some b →
    b.getLsbD 5 = s.locked ∧ b.getLsbD 3 = s.discarded ∧ (b.getLsbD 6 = true → s.outbound ≠ []) ∧
      ∀ i < 3, b.getLsbD i = false

/-! ### Places of calls (laws L2, L3, L9) -/

/-- A reference names a live record that carries it. -/
def Live (ref : Nat) (c : CallRecord) (s : State) : Prop := s.call ref = some c ∧ c.ref = ref

/-- The call occupies a loop of its home position (R6, R54). -/
def OnHomeLoop (c : CallRecord) (p l : Nat) (s : State) : Prop :=
  c.home = some p ∧ c.loop = some l ∧ (s.pos p).loopAt l = some c.ref

/-- The place that a record holds, by its state (R7, law L2; law L3 for the talk path, law L9 for the camp ring). -/
def HoldsItsPlace (c : CallRecord) (s : State) : Prop :=
  match c.state with
  | .queued => c.loop = none ∧ c.ref ∈ (s.group c.group).queue
  | .offered => c.loop = none ∧ ∃ p, (s.pos p).offer = some c.ref
  | .talking => ∃ p l, OnHomeLoop c p l s ∧ (s.pos p).talkLoop = some l
  | .extending =>
    c.fromCamp = false ∧ c.curDest ≠ none ∧ ∃ p l, OnHomeLoop c p l s ∧ (s.pos p).talkLoop = some l
  | .held | .recalling => ∃ p l, OnHomeLoop c p l s
  | .camped => c.loop = none ∧ ∃ st, c.curDest = some st ∧ c.ref ∈ (s.station st).campList
  | .ringingAway =>
    c.loop = none ∧ ∃ st, c.curDest = some st ∧ (c.fromCamp = true → (s.station st).ring = some c.ref)
  | .diverting => c.loop = none

/-- A deadline of a kind runs in the states that R144 gives it. -/
def CallState.runs : CallState → DeadlineKind → Prop
  | .queued, k => k = .queue ∨ k = .warning
  | .offered, k => k = .offer
  | .held, k => k = .hold
  | .extending, k => k = .noAnswer
  | .ringingAway, k => k = .noAnswer
  | .camped, k => k = .camp
  | .recalling, k => k = .recallRing
  | .talking, _ => False
  | .diverting, _ => False

/-- Every live record holds the one place of its state, with a deadline of that state only, and every place holds a call in
the state of the place (laws L2, L3 and L9; R7, R53, R144). -/
def CallsPlaced (s : State) : Prop :=
  (∀ n c, (s.slot n).call = some c → HoldsItsPlace c s ∧ ∀ d, c.deadline = some d → c.state.runs d.kind) ∧
    (∀ g, (s.group g).queue.Nodup ∧
      ∀ r ∈ (s.group g).queue, ∃ c, Live r c s ∧ c.state = .queued ∧ c.group = g) ∧
    (∀ p r, (s.pos p).offer = some r →
      p ∈ positionNumbers ∧ (∃ c, Live r c s ∧ c.state = .offered) ∧ ∀ q, (s.pos q).offer = some r → q = p) ∧
    (∀ p l r, (s.pos p).loopAt l = some r → p ∈ positionNumbers ∧ l ∈ loopNumbers ∧
      ∃ c, Live r c s ∧ c.home = some p ∧ c.loop = some l ∧
        (c.state = .talking ∨ c.state = .held ∨ c.state = .extending ∨ c.state = .recalling)) ∧
    (∀ p l, (s.pos p).talkLoop = some l →
      ∃ c, OnHomeLoop c p l s ∧ Live c.ref c s ∧ (c.state = .talking ∨ c.state = .extending)) ∧
    (∀ st, (s.station st).campList.Nodup ∧
      ∀ r ∈ (s.station st).campList, ∃ c, Live r c s ∧ c.state = .camped ∧ c.curDest = some st) ∧
    ∀ st r, (s.station st).ring = some r →
      ∃ c, Live r c s ∧ c.state = .ringingAway ∧ c.fromCamp = true ∧ c.curDest = some st

/-- Arrival sequences: no two live records share one, none is above the counter, and every queue is in strictly increasing
sequence (law L5; R29, R30). -/
def QueuesOrdered (s : State) : Prop :=
  (∀ m n c d, (s.slot m).call = some c → (s.slot n).call = some d → c.arrivalSeq = d.arrivalSeq → m = n) ∧
    (∀ n c, (s.slot n).call = some c → c.arrivalSeq ≤ s.arrivalCounter) ∧
    ∀ g, (queueCalls g s).Pairwise (fun c d => c.arrivalSeq < d.arrivalSeq)

/-- Only QUEUED calls are night-bound, and a sweep is ACTIVE exactly while a call of the group's queue is (law L11; R170,
R175, R179). -/
def MarksSwept (s : State) : Prop :=
  (∀ n c, (s.slot n).call = some c → c.nightBound = true → c.state = .queued) ∧
    ∀ g, (s.group g).sweep ≠ .idle ↔ ∃ r ∈ (s.group g).queue, ∃ c, s.call r = some c ∧ c.nightBound = true

/-! ## Frames -/

/-- The time, the configuration registers and the link, scan, polling and model's own registers are as they were. -/
def SameRegisters (s t : State) : Prop :=
  t.phase = s.phase ∧ t.timeCount = s.timeCount ∧ t.classes = s.classes ∧ t.ageShift = s.ageShift ∧
    t.bypassLimit = s.bypassLimit ∧ t.recallLimit = s.recallLimit ∧ t.timers = s.timers ∧ t.waiting = s.waiting ∧
    t.locked = s.locked ∧ t.scan = s.scan ∧ t.block = s.block ∧ t.toPoll = s.toPoll ∧ t.exchange = s.exchange ∧
    t.bus = s.bus ∧ t.freeDraws = s.freeDraws ∧ t.pending = s.pending

/-- No transaction has ended: the record of SDO, DISCARDED and the host's `overlaps` are as they were. The transaction that waits
first has begun before the event if the event falls inside it (R184, log 4). -/
def SameLink (s t : State) : Prop :=
  t.sdo = s.sdo ∧ t.discarded = s.discarded ∧ t.opened = s.begun.opened ∧ t.overlaps = s.overlaps

/-- A WRITE has ended: SDO carried its status byte, which is the one that the state holds of a transaction in progress and
else the present one, and DISCARDED is clear unless that byte did not show it (R184, R185). Its entry of `overlaps` is done
with (log 4). -/
def StatusShown (s t : State) : Prop :=
  t.sdo = [openingByte s] ∧ t.discarded = (s.discarded && !(openingByte s).getLsbD 3) ∧ t.opened = none ∧
    t.overlaps = s.overlaps.tail

/-- Every slot but the one that `ref` names is as it was. -/
def SameSlotsBut (ref : Nat) (s t : State) : Prop := ∀ n, n ≠ slotOf ref → t.slot n = s.slot n

/-- A group as it was, but that a pairing may have been called for in an OFFER group (R42). -/
def SameGroup (g : Nat) (s t : State) : Prop :=
  t.group g = { s.group g with pairingDue := (t.group g).pairingDue } ∧
    ((s.group g).pairingDue = true → (t.group g).pairingDue = true) ∧
    ((t.group g).pairingDue = true → (s.group g).pairingDue = true ∨ (s.group g).offerMode = .offer)

/-- Every group as it was, but that a pairing may have been called for in an OFFER group. -/
def SameGroups (s t : State) : Prop := ∀ g, SameGroup g s t

/-- A position as it was, but for the messages in its output buffer. -/
def SamePosition (p : Nat) (s t : State) : Prop := t.pos p = { s.pos p with buffer := (t.pos p).buffer }

/-- Every position but `p` as it was, but for the messages in the output buffers. -/
def SamePositionsBut (p : Nat) (s t : State) : Prop := ∀ q, q ≠ p → SamePosition q s t

/-- Every position as it was, but for the messages in the output buffers. -/
def SamePositions (s t : State) : Prop := ∀ q, SamePosition q s t

/-- The Station Directory as it was. -/
def SameDirectory (s t : State) : Prop := t.stations = s.stations ∧ t.hunts = s.hunts

/-! ## When a command is taken -/

/-- The port takes a request for its owner: it is ready and unlocked (R188, R189). -/
abbrev LinkTakes (s : State) : Prop := s.isReady = true ∧ s.locked = false

/-- An event of the part's own is admitted: the part is out of reset and the reserve is free (R194, R211). -/
abbrev Admits (s : State) : Prop := s.phase ≠ .inReset ∧ s.reserveFree = true

/-- The KEY `code` with its argument stands at the head of the intake list of position `p` (R201). -/
abbrev KeyAtHead (p code arg : Nat) (s : State) : Prop := p ∈ positionNumbers ∧ headEvent p s = some (.key code arg)

/-- Call `c` is the talk call of position `p` on loop `l`, and its record says so (R54). -/
abbrev OnTalkPath (p l : Nat) (c : CallRecord) (s : State) : Prop :=
  (s.pos p).talkLoop = some l ∧ (s.pos p).loopAt l = some c.ref ∧ s.call c.ref = some c ∧ c.home = some p ∧
    c.loop = some l

/-- The record in slot `n` is `c`, it names itself, and its deadline of kind `kind` has fallen due (R144, R146). -/
abbrev Due (n : Nat) (kind : DeadlineKind) (c : CallRecord) (s : State) : Prop :=
  (s.slot n).call = some c ∧ slotOf c.ref = n ∧
    c.deadline.any (fun d => d.kind == kind && d.due s.timeCount) = true

/-- Reference `ref` resolves to the live record `c`, which carries it (R3). -/
abbrev Names (ref : Nat) (c : CallRecord) (s : State) : Prop :=
  genOf ref ≠ 0 ∧ genOf ref = (s.slot (slotOf ref)).gen ∧ s.call ref = some c ∧ c.ref = ref

/-- The state after a transaction that was one whole status byte and then did nothing: SDO carried the byte that opened it,
a DISCARDED that it showed is cleared, and its entry of `overlaps` is done with (R184, R185; log 4). -/
def State.afterStatus (s : State) : State :=
  { s with sdo := [openingByte s], discarded := s.discarded && !(openingByte s).getLsbD 3, opened := none,
           overlaps := s.overlaps.tail }

/-- The KEY event at the head of the intake list of position `p` is the one that row `i` stands for (R201). -/
abbrev KeyRow (i : Instr) (p : Nat) (s : State) : Prop :=
  ∃ code arg, headEvent p s = some (.key code arg) ∧
    ((i = .answer p ∧ code = 1) ∨ (i = .loop p arg ∧ code = 2) ∨ (i = .hold p ∧ code = 3) ∨ (i = .release p ∧ code = 4) ∨
      (i = .extend p ∧ code = 5) ∨ (i = .extendBlind p ∧ code = 6) ∨ (i = .retry p ∧ code = 7) ∨
      (i = .hunt p arg ∧ code = 8) ∨ (i = .cancel p ∧ code = 9) ∨ (i = .swap p ∧ code = 10) ∨ (i = .camp p ∧ code = 11) ∨
      (i = .ready p ∧ code = 12) ∨ (i = .breakKey p ∧ code = 13) ∨ (i = .signIn p ∧ code = 14) ∨
      (i = .signOut p ∧ code = 15) ∨ (i = .unknownKey p code arg ∧ (code = 0 ∨ 15 < code)))

/-- Row `i` is the expiry of a deadline of kind `kind` at the record `c` of slot `n` (R144). -/
abbrev ExpiryRow (i : Instr) (n : Nat) (kind : DeadlineKind) (c : CallRecord) : Prop :=
  (i = .queueExpiry n ∧ kind = .queue ∧ c.state = .queued) ∨
    (i = .warningExpiry n ∧ kind = .warning ∧ c.state = .queued) ∨
    (i = .offerExpiry n ∧ kind = .offer ∧ c.state = .offered) ∨
    (i = .holdExpiry n ∧ kind = .hold ∧ c.state = .held) ∨
    (i = .recallRingExpiry n ∧ kind = .recallRing ∧ c.state = .recalling) ∨
    (i = .noAnswerExpiryExtending n ∧ kind = .noAnswer ∧ c.state = .extending) ∨
    (i = .noAnswerExpiryRingingAway n ∧ kind = .noAnswer ∧ c.state = .ringingAway ∧ c.fromCamp = false) ∨
    (i = .campRingNoAnswerExpiry n ∧ kind = .noAnswer ∧ c.state = .ringingAway ∧ c.fromCamp = true) ∨
    (i = .campExpiry n ∧ kind = .camp ∧ c.state = .camped)

/-- Row `i` stands for an admitted event that is due, and waits as `w` while the reserve is short (R194, log 5): a scan step, a
block update step, a sweep step, a release step, any KEY, any of the nine expiries. -/
abbrev AdmittedAs (i : Instr) (w : Waiting) (s : State) : Prop :=
  (i = .scanStep ∧ s.scan.isSome = true ∧ w = .scan) ∨ (i = .blockUpdateStep ∧ s.block.isSome = true ∧ w = .block) ∨
    (∃ g due, i = .sweepStep g ∧ (s.group g).sweep = .active due ∧ due ≤ s.timeCount ∧ w = .sweep g due) ∨
    (∃ p, i = .releaseStep p ∧ (s.pos p).releaseList ≠ [] ∧ w = .release p) ∨
    (∃ p, KeyRow i p s ∧ w = .key p) ∨
    (∃ n c d, ExpiryRow i n d.kind c ∧ (s.slot n).call = some c ∧ slotOf c.ref = n ∧ c.deadline = some d ∧
      d.start + d.duration ≤ s.timeCount ∧ w = .expiry c.ref d)

/-- The waiting events `ws` of state `s` are admitted in their order, and `t` is the state after it: while the reserve is free,
the first of them leaves the list and is taken as its own command would be, if what it waits to do still stands, and is
passed over if not; what finds the reserve short waits on (R146, R194; log 4, log 5). -/
def AdmittedInOrder : List Waiting → State → State → Prop
  | [], s, t => t = s
  | w :: ws, s, t =>
    (s.reserveFree = false ∧ t = s) ∨
      (s.reserveFree = true ∧ ∃ u, AdmittedInOrder ws u t ∧
        ((∃ c, AdmittedAs c w s ∧ exec c { s with waiting := ws } = .next u) ∨
          ((∀ c, ¬AdmittedAs c w s) ∧ u = { s with waiting := ws }.begun)))

/-- Command `i` makes the call `c`, which is on no loop and whose current destination is `st`, take a recall (R103, R130,
R134 to R136; R95): the answer or the DROP that goes ahead of the recall's own order, by the state code that the call then
has; the camp start that the call keeps; the entry of the station afterwards. -/
abbrev RecalledBy (i : Instr) (n st : Nat) (c : CallRecord) (ahead : Nat → List Msg) (start : Option Nat) (e : Station)
    (s : State) : Prop :=
  (s.slot n).call = some c ∧ slotOf c.ref = n ∧ c.loop = none ∧ c.curDest = some st ∧
    ((LinkTakes s ∧ Names c.ref c s ∧ c.state = .ringingAway ∧ (c.progress = some .pending ∨ c.progress = some .ringing) ∧
        ahead = (fun code => [.answer .ringResult .ok c.ref code .none]) ∧
        ((c.fromCamp = false ∧ (i = .ringResult c.ref c.attempt 4 ∨ i = .ringResult c.ref c.attempt 5) ∧
            start = c.campStart ∧ e = s.station st) ∨
          (c.fromCamp = false ∧ i = .ringResult c.ref c.attempt 3 ∧
            ((s.station st).campAllowed = false ∨ 3 ≤ (s.station st).occupancy ∨ 64 ≤ poolOccupancy s) ∧
            start = none ∧ e = s.station st) ∨
          (c.fromCamp = true ∧ (i = .ringResult c.ref c.attempt 4 ∨ i = .ringResult c.ref c.attempt 5) ∧
            start = none ∧ e = { s.station st with ring := none }) ∨
          (∃ x, c.fromCamp = true ∧ i = .ringResult c.ref c.attempt 3 ∧ c.campStart = some x ∧
            x + s.timers.camp ≤ s.timeCount ∧ start = none ∧ e = { s.station st with ring := none }))) ∨
      (Due n .noAnswer c s ∧ c.state = .ringingAway ∧ c.fromCamp = false ∧ i = .noAnswerExpiryRingingAway n ∧
        ahead = (fun _ => [.drop c.ref c.attempt]) ∧ start = c.campStart ∧ e = s.station st) ∨
      (Due n .noAnswer c s ∧ c.state = .ringingAway ∧ c.fromCamp = true ∧ i = .campRingNoAnswerExpiry n ∧
        ahead = (fun _ => [.drop c.ref c.attempt]) ∧ start = none ∧ e = { s.station st with ring := none }) ∨
      (Due n .camp c s ∧ c.state = .camped ∧ i = .campExpiry n ∧ ahead = (fun _ => []) ∧ start = none ∧
        e = { s.station st with campList := (s.station st).campList.filter (fun x => x ≠ c.ref) }))

/-- Clearing the talk path of its talk call `c` (R68): what becomes of the record, the orders that go ahead, and whether the
call keeps its loop. A TALKING call is put on hold; an EXTENDING one is bridged, released blind, or returned to the source and
put on hold. -/
abbrev TalkPathCleared (c : CallRecord) (after : Option CallRecord) (orders : List Msg) (keeps : Bool) (p : Nat) (s : State) :
    Prop :=
  (c.state = .talking ∧ orders = [.hold c.ref] ∧ keeps = true ∧
      after = some { c with
        state := .held, talkSide := none, deadline := some ⟨.hold, s.timeCount, s.timers.hold⟩ }) ∨
    (c.state = .extending ∧ c.progress = some .answered ∧ orders = [.bridge c.ref] ∧ keeps = false ∧ after = none) ∨
    (c.state = .extending ∧ (c.progress = some .pending ∨ c.progress = some .ringing) ∧ c.mode = .blind ∧ orders = [] ∧
      keeps = false ∧ after = some { c with state := .ringingAway, loop := none, talkSide := none }) ∨
    (c.state = .extending ∧ c.progress = some .busy ∧ keeps = true ∧
      orders = (if c.talkSide = some .dest then [.attach c.ref p .source] else []) ++ [.hold c.ref] ∧
      after = some { c with
        state := .held, talkSide := none, progress := none,
        deadline := some ⟨.hold, s.timeCount, s.timers.hold⟩ })

/-- What a release step does with the call `c` it finds in loop `l` of a position `q`, but a blind release: the orders that
put it off the loop, and whether a recall is counted (R64, R65). -/
abbrev LeavesByRelease (c : CallRecord) (orders : List Msg) (counted : Bool) (l : Nat) (q : Position) : Prop :=
  (c.state = .held ∧ q.talkLoop ≠ some l ∧ orders = [] ∧ counted = true) ∨
    (c.state = .recalling ∧ q.talkLoop ≠ some l ∧ orders = [] ∧ counted = false) ∨
    (c.state = .talking ∧ q.talkLoop = some l ∧ orders = [.hold c.ref] ∧ counted = true) ∨
    (c.state = .extending ∧ q.talkLoop = some l ∧ counted = true ∧
      ((c.progress = some .busy ∧ orders = [.hold c.ref]) ∨
        ((c.progress = some .answered ∨
            (c.mode = .screened ∧ (c.progress = some .pending ∨ c.progress = some .ringing))) ∧
          orders = [.drop c.ref c.attempt, .hold c.ref])))

/-- A release step has taken the call `c` out of loop `l` of position `p`, `rest` being left of the release list; the groups
and the record are not spoken of (R63). -/
def ReleasedFrom (p l : Nat) (rest : List Nat) (c : CallRecord) (s t : State) : Prop :=
  (∀ m, (t.pos p).loopAt m = if m = l then none else (s.pos p).loopAt m) ∧
    t.pos p = { s.pos p with
      releaseList := rest, loops := (t.pos p).loops, buffer := (t.pos p).buffer,
      talkLoop := if (s.pos p).talkLoop = some l then none else (s.pos p).talkLoop,
      dialled := if (s.pos p).talkLoop = some l then none else (s.pos p).dialled,
      idleSince := if (s.pos p).talkLoop = some l then s.timeCount else (s.pos p).idleSince } ∧
    SameSlotsBut c.ref s t ∧ SamePositionsBut p s t ∧ SameDirectory s t ∧ SameRegisters s t ∧ SameLink s t

/-- The records after a selection has chosen `c` from the queue of group `g`, but the record of `c` itself and those of the
slots in `others`: the selectable calls ahead of it have their bypass counts raised, up to the limit (R38). -/
def BypassRaised (g : Nat) (c : CallRecord) (others : List Nat) (s t : State) : Prop :=
  ∀ n, n ≠ slotOf c.ref → n ∉ others → t.slot n = { s.slot n with call := (s.slot n).call.map (fun d =>
    if d.ref ∈ (s.group g).queue ∧ d.state = .queued ∧ d.nightBound = false ∧ d.arrivalSeq < c.arrivalSeq ∧
        d.bypass < s.bypassLimit
      then { d with bypass := d.bypass + 1 } else d) }

/-- Command `i` withdraws the live record `c`: a CLEARED, or a TAKE by reference, with any byte `kind` in the place that the
kind of an origin has, whose condition holds in its state; `k` is the request and `notice` what its talk position shows (R13, R18). -/
abbrev Withdraws (i : Instr) (ref kind : Nat) (c : CallRecord) (k : ReqKind) (notice : Notice) : Prop :=
  (i = .cleared ref ∧ k = .cleared ∧ notice = .callerCleared) ∨
    (k = .take ∧ notice = .callTaken ∧
      ((i = .take 0 0 kind ref ∧ TakeCondition.ifWaiting.holds c.state = true) ∨
        (i = .take 0 1 kind ref ∧ TakeCondition.ifUnattended.holds c.state = true) ∨
        (i = .take 0 2 kind ref ∧ TakeCondition.always.holds c.state = true)))

/-! ## The end of an event -/

/-- The messages for what an event that led from `s` to `t` changed in the image of position `p`: the lamps that changed, the
display if it changed, in the order of the image (R81). -/
def imageNews (p : Nat) (s t : State) : List ConMsg :=
  (loopNumbers.filter (fun l => loopLamp p l t ≠ loopLamp p l s)).map (fun l => .lamp l (loopLamp p l t)) ++
    (if offerLamp p t = offerLamp p s then [] else [.lamp 7 (offerLamp p t)]) ++
    (if (t.pos p).avail = (s.pos p).avail then [] else [.availability (t.pos p).avail]) ++
    (if displayOf p t = displayOf p s then [] else [.display (displayOf p t)])

/-- The message for the count and lamp of the group of position `p`, if an event changed them (R51). -/
def groupNews (p : Nat) (s t : State) : List ConMsg :=
  if waitingCount (t.pos p).group t = waitingCount (t.pos p).group s ∧
      groupLamp (t.pos p).group t = groupLamp (t.pos p).group s then []
  else [.group (t.pos p).group (groupLamp (t.pos p).group t) (waitingCount (t.pos p).group t)]

/-- The output buffer of position `p` after an event that led from `s` to `t` and produced `msgs` for it: at a present console
the messages of the event follow those that waited, or, past 16, the whole image follows the one in flight; at an absent
console nothing is placed (R81, R204, R205). -/
def Placed (msgs : List ConMsg) (p : Nat) (s t : State) : Prop :=
  (t.pos p).buffer =
    if (s.pos p).present = false then (s.pos p).buffer
    else if (s.pos p).buffer.length + msgs.length ≤ 16 then (s.pos p).buffer ++ msgs
    else (if (s.pos p).inFlight then (s.pos p).buffer.take 1 else []) ++ wholeImage p t

/-- Position `p` has been told of an event which changed its image before it produced `tones`: the image changes, the tones and
the group's message stand in its buffer in that order (R204; log 7). -/
def Told (tones : List Tone) (p : Nat) (s t : State) : Prop :=
  Placed (imageNews p s t ++ tones.map .tone ++ groupNews p s t) p s t

/-- Position `p` has been told of an event which produced the tones `tones`: its image changes and the tones stand in the
buffer in an order in which the messages `order` follow one another, and the group's message after them (R204; log 7). -/
def ToldInOrder (tones : List Tone) (order : List ConMsg) (p : Nat) (s t : State) : Prop :=
  ∃ msgs : List ConMsg, msgs.Perm (imageNews p s t ++ tones.map .tone) ∧ order.Sublist msgs ∧
    Placed (msgs ++ groupNews p s t) p s t

/-- The tone that a message carries. -/
def ConMsg.toneOf : ConMsg → Option Tone
  | .tone x => some x
  | .lamp _ _ | .availability _ | .display _ | .group _ _ _ => none

/-- The NOTICE tones of an event at position `p`: one for each call that it recalled to the position, one for a new offer
(R43, R162, R163). -/
def noticesOf (p : Nat) (s t : State) : List Tone :=
  List.replicate (((List.range 256).filter (fun n =>
      (t.slot n).call.any (fun d => d.state = .recalling ∧ d.home = some p) &&
        !(s.slot n).call.any (fun c => c.state = .recalling))).length +
    if (t.pos p).offer ≠ none ∧ (t.pos p).offer ≠ (s.pos p).offer then 1 else 0) .notice

/-- The position whose KEY or DIAL event a row takes. -/
def keyPosition : Instr → Option Nat
  | .answer p | .loop p _ | .hold p | .release p | .extend p | .extendBlind p | .retry p | .hunt p _ | .cancel p | .swap p
  | .camp p | .ready p | .breakKey p | .signIn p | .signOut p | .unknownKey p _ _ | .dial p _ => some p
  | _ => none

/-- Row `i`, which leads from `s` to `t`, does more to the output buffer of position `p` than place the messages of one event:
it resets or refreshes the console, confirms a message, loses the console, counts a tenth, or is a READ, which admits any
number of events. -/
abbrev OwnBuffer (i : Instr) (p : Nat) (s t : State) : Prop :=
  i = .hardwareReset ∨ i = .restart ∨ i = .timeCountTick ∨ (∃ n, i = .read n) ∨
    (∃ x events, i = .countedReply p x events ∨ i = .presenceRestore p x events) ∨
    (i = .missedPoll p ∧ (t.pos p).present ≠ (s.pos p).present) ∨
    (∃ flag grp, i = .configurePosition p flag grp ∧
      ((t.pos p).enabled ≠ (s.pos p).enabled ∨ (t.pos p).group ≠ (s.pos p).group))

/-- If the event made position `p` offerable, a pairing is due in the position's group where that is an OFFER group (R42, R56;
the flag is the model's own, log 6). -/
def PairingFollows (p : Nat) (s t : State) : Prop :=
  ∀ g ∈ groupNumbers, offerable g p s = false → offerable g p t = true → (t.group g).offerMode = .offer →
    (t.group g).pairingDue = true

/-- A request has been answered `a` and has changed nothing else, but that messages of an earlier event may have reached
the output buffers. -/
def AnsweredOnly (a : Msg) (s t : State) : Prop :=
  t.outbound = s.outbound ++ [a] ∧ StatusShown s t ∧ SameRegisters s t ∧ t.arrivalCounter = s.arrivalCounter ∧
    (∀ n, t.slot n = s.slot n) ∧ SameGroups s t ∧ SamePositions s t ∧ SameDirectory s t

/-- A position record as a key taken at it leaves it before the key's own effects: the event out of the intake list, and
no notice (R80, R201). -/
def Position.afterKey (q : Position) : Position := { q with notice := none, intake := q.intake.tail }

end Sys2Proof.Machine
end

