-- ==== Sys2Proof/Certificates/Slice0/Obligations.lean ====
section
/-! DEFINITION. The statements for the provers. A frame (`Same…`, `AnsweredOnly`, Safety.lean) says what an event leaves as
it was; the messages an event places in the output buffers have statements of their own, `EventMessagesArePlaced` and
`EveryRowPlacesItsMessages`. That an event inside the part finds the transaction begun inside which it falls (`SameLink`),
and that a request is taken with the status byte of its beginning (`StatusShown`), are the model's form in all of them (log 4,
log 17). -/

open Sys2Proof Sys2Proof.Machine

/-! ## The machine as a whole -/

/-- A step carries out the command at the front of the queue on the state with the queue's rest; on an empty queue the part
idles (log 1). The queue of commands and its idling are the model's own (log 1). -/
def Obligations.StepTakesFrontCommand : Prop :=
  ∀ (s : State) (c : Instr) (rest : List Instr),
    step { s with pending := c :: rest } = exec c { s with pending := rest } ∧ (s.pending = [] → step s = .next s)

/-- Hardware reset leaves every block at its reset state and every item at its default; while RESET_N is low the part takes
no event, so that every command but HARDWARE_RESET and RESET_N_RELEASE leaves every state of the part as it is. The release
of RESET_N starts the start-up interval, its end starts polling, and a tenth counts except while RESET_N is low; a count past
the largest value is a free value (log 9). The model's own: that the state stands while RESET_N is low, that a command which
comes then changes nothing, but that a transaction is over, and that the queue of commands with the places of its
transactions stays (log 1, log 2, log 3, log 4); the positions still to be polled (log 13). -/
def Obligations.ResetAndStartUp : Prop :=
  (
    ∀ s : State, ∃ t, exec .hardwareReset s = .next t ∧ t.phase = .inReset ∧ t.timeCount = 0 ∧
      (∀ n, t.slot n = ⟨0, none⟩) ∧ t.arrivalCounter = 0 ∧
      (∀ g, (t.group g).offerMode = .pull ∧ (t.group g).alarmDepth = 8 ∧ (t.group g).policy = .select ∧
        (t.group g).overflow = none ∧ (t.group g).night = none ∧ (t.group g).sweepPolicy = .staffFirst ∧
        (t.group g).mode = .night ∧ (t.group g).sweep = .idle ∧ (t.group g).queue = []) ∧
      (∀ p, (t.pos p).enabled = true ∧ (t.pos p).group = 0 ∧ (t.pos p).avail = .signedOut ∧
        (∀ l, (t.pos p).loopAt l = none) ∧ (t.pos p).talkLoop = none ∧ (t.pos p).offer = none ∧
        (t.pos p).dialled = none ∧ (t.pos p).notice = none ∧ (t.pos p).releaseList = [] ∧ (t.pos p).idleSince = 0 ∧
        (t.pos p).missed = 3 ∧ (t.pos p).present = false ∧ (t.pos p).outSeq = false ∧ (t.pos p).sync = true ∧
        (t.pos p).inFlight = false ∧ (t.pos p).lastIn = false ∧ (t.pos p).buffer = [] ∧ (t.pos p).intake = []) ∧
      (∀ st, t.station st = ⟨.out, false, true, [], none⟩) ∧ poolOccupancy t = 0 ∧ (∀ h, t.huntRange h = none) ∧
      t.outbound = [] ∧ t.waiting = [] ∧ t.opened = none ∧ t.locked = false ∧ t.discarded = false ∧ t.scan = none ∧ t.block = none ∧
      t.cls 0 = ⟨3000, 0, 0⟩ ∧ t.cls 1 = ⟨600, 20, 1200⟩ ∧ t.cls 2 = ⟨200, 12, 900⟩ ∧ t.cls 3 = ⟨100, 40, 1800⟩ ∧
      (∀ c, 4 ≤ c → t.cls c = ⟨0, 16, 1800⟩) ∧ t.ageShift = 4 ∧ t.bypassLimit = 3 ∧ t.recallLimit = 3 ∧
      t.timers = ⟨150, 100, 600, 200, 250, 900, 5⟩ ∧ t.pending = s.pending ∧
      t.overlaps = s.overlaps) ∧
  (
    ∀ s : State,
      (s.phase = .inReset → exec .resetNRelease s = .next { s with phase := .starting }) ∧
      (s.phase = .starting → s.isReady = false ∧
        exec .startUpEnd s = .next { s.begun with phase := .running,
                                                  toPoll := positionNumbers.filter (fun p => (s.pos p).enabled) }) ∧
      (s.phase ≠ .inReset → s.timeCount < 2 ^ 48 - 1 →
        exec .timeCountTick s = .next { s.begun with timeCount := s.timeCount + 1 }) ∧
      (s.phase ≠ .inReset → s.timeCount = 2 ^ 48 - 1 →
        ∃ t, exec .timeCountTick s = .next t ∧ t.timeCount < 2 ^ 48 ∧
          t = { s.begun with timeCount := t.timeCount, freeDraws := s.freeDraws + 1 })) ∧
  (
    ∀ (s : State) (c : Instr), s.phase = .inReset → c ≠ .hardwareReset → c ≠ .resetNRelease →
      exec c s = .next (if isTransaction c then { s with opened := none, overlaps := s.overlaps.tail } else s))

/-! ## Control link -/

/-- The bits of the status byte, and when the port takes requests. The first transaction that waits begins before an event
inside the part exactly if, by its entry in the list that the host gives, the event falls inside it; its status byte then
stays as it was before the event, while the event changes the state. One that has not begun shows the present state, the
changes of every event before it among them. A status poll shows its status byte and zeros, and clears a DISCARDED that the
byte showed; one cut short before its first byte is whole clears nothing. When a transaction begins, and the record of the
bytes sent, are the model's form (log 4, log 17). That READY is clear until a block update ends, against one sentence of
R112, is the model's choice (log 24). -/
def Obligations.StatusByteAndStatusPoll : Prop :=
  (
    ∀ s : State,
      (statusByte s).getLsbD 7 = s.isReady ∧ (statusByte s).getLsbD 6 = !s.outbound.isEmpty ∧
      (statusByte s).getLsbD 5 = s.locked ∧ (statusByte s).getLsbD 4 = (s.phase == .starting) ∧
      (statusByte s).getLsbD 3 = s.discarded ∧ (∀ i, i < 3 → (statusByte s).getLsbD i = false) ∧
      (s.isReady = true ↔
        s.phase = .running ∧ s.outbound.length + 16 ≤ 128 ∧ s.scan = none ∧ s.block = none)) ∧
  (
    ∀ s : State,
      s.begun = { s with opened := s.begun.opened } ∧
      (∀ b, s.opened = some b → s.begun.opened = some b ∧ openingByte s = b) ∧
      (s.opened = none → openingByte s = statusByte s ∧
        (∀ (ahead behind : List Instr) (c : Instr), s.pending = ahead ++ c :: behind →
          (∀ e ∈ ahead, isTransaction e = false) → isTransaction c = true →
          s.begun.opened = if ahead.length < s.overlaps.headD 0 then some (statusByte s) else none) ∧
        ((∀ c ∈ s.pending, isTransaction c = false) → s.begun.opened = none)) ∧
      (∀ c, (encodeRequest c).isSome = true → isTransaction c = true)) ∧
  (
    ∀ (s : State) (n : Nat), s.phase ≠ .inReset →
      exec (.statusPoll 0) s = .next { s with sdo := [], opened := none, overlaps := s.overlaps.tail } ∧
      exec (.statusPoll (n + 1)) s = .next { s.afterStatus with sdo := openingByte s :: List.replicate n 0 })

/-- A READ sends the head frame, or the empty frame where its status byte showed no message; the frame leaves the queue only
if it was clocked whole. A READ that brings the reserve back admits the one event that waits, which is taken as its own
command would be, whatever it is: any of the nine expiries, a sweep, release, scan or block update step, or any KEY. Several
events that wait are admitted in the order in which they began to wait, each finding the reserve that the earlier ones left;
one for which there is nothing left to do is passed over. When the READ looks at the queue, the record of the bytes sent and
the admission inside the step of the READ are the model's choices (log 4, log 5, log 17, log 23). The bits of a frame that
the spec gives to no field are free values (log 26). -/
def Obligations.ReadSendsTheHeadAndAdmitsWaitingEvents : Prop :=
  (
    ∀ (s : State) (n : Nat) (m : Msg) (rest : List Msg), s.phase ≠ .inReset →
      (s.outbound = [] ∨ (openingByte s).getLsbD 6 = false →
        exec (.read n) s = .next { s.afterStatus with sdo := openingByte s :: List.replicate n 0 }) ∧
      (s.outbound = m :: rest → (openingByte s).getLsbD 6 = true → n < m.frame.length →
        exec (.read n) s = .next { s.afterStatus with sdo := openingByte s :: m.frame.take n }) ∧
      (s.outbound = m :: rest → (openingByte s).getLsbD 6 = true → m.frame.length ≤ n →
        (s.waiting = [] ∨ 112 < rest.length) →
        exec (.read n) s =
          .next { s.afterStatus with
            sdo := openingByte s :: (m.frame ++ List.replicate (n - m.frame.length) 0), outbound := rest })) ∧
  (
    ∀ (s : State) (n : Nat) (m : Msg) (rest : List Msg) (w : Waiting) (c : Instr), s.phase ≠ .inReset →
      s.outbound = m :: rest → (openingByte s).getLsbD 6 = true → m.frame.length ≤ n → rest.length ≤ 112 →
      s.waiting = [w] → AdmittedAs c w s →
      exec (.read n) s =
        exec c { s.afterStatus with
          sdo := openingByte s :: (m.frame ++ List.replicate (n - m.frame.length) 0), outbound := rest, waiting := [] }) ∧
  (
    ∀ (s : State) (n : Nat) (m : Msg) (rest : List Msg), s.phase ≠ .inReset → s.outbound = m :: rest →
      (openingByte s).getLsbD 6 = true → m.frame.length ≤ n →
      ∃ t, exec (.read n) s = .next t ∧
        AdmittedInOrder s.waiting
          { s.afterStatus with
            sdo := openingByte s :: (m.frame ++ List.replicate (n - m.frame.length) 0), outbound := rest } t)

/-- A request that ends while the port is not ready is discarded, whatever its kind, whatever its status byte showed and
whether or not the link is locked: no answer, no effect, DISCARDED set. While the link is locked, every well-formed request
but LINK_CLEAR is answered LOCKED, under its own kind, and has no other effect. A malformed request that the port takes
locks the link and places nothing; LINK_CLEAR clears the lock and is answered OK, whether or not the link was locked. A
transaction is taken at its end, with the status byte of its beginning, in the model's form (log 4, log 17). That the port
is not ready until a block update ends, against one sentence of R112, is the model's choice (log 24). -/
def Obligations.DiscardsAndTheLinkLock : Prop :=
  (
    ∀ (s : State) (c : Instr), (c = .malformedRequest ∨ (encodeRequest c).isSome = true) → s.phase ≠ .inReset →
      s.isReady = false → exec c s = .next { s.afterStatus with discarded := true }) ∧
  (
    ∀ (s : State) (c : Instr), (encodeRequest c).isSome = true → c ≠ .linkClear → s.isReady = true → s.locked = true →
      ∃ k, (encodeRequest c).bind List.head? = some (BitVec.ofNat 8 k.code) ∧ exec c s =
        .next { s.afterStatus with outbound := s.outbound ++ [.answer k .locked 0 0 .none] }) ∧
  (
    ∀ s : State, s.isReady = true →
      exec .malformedRequest s = .next { s.afterStatus with locked := true } ∧
      exec .linkClear s =
        .next { s.afterStatus with locked := false, outbound := s.outbound ++ [.answer .linkClear .ok 0 0 .none] })

/-! ## Call Table -/

/-- A PRESENT of a new origin takes the lowest FREE slot, with the next generation. In a group that is not in NIGHT with a
night station the call is queued at the tail, and the answer is OK with state 1; else it is DIVERTING, with a DIVERT order
of reason NIGHT behind the answer OK with state 9. The flag that a pairing is due is the model's own (log 6). -/
def Obligations.PresentAllocates : Prop :=
  (
    ∀ (s : State) (kind number cls grp : Nat) (tag : List Nat) (k : OriginKind) (n ref : Nat),
      LinkTakes s → readOriginKind kind = some k → number ≤ 4095 → cls ≤ 7 → grp ≤ 3 → tag.length ≤ 12 →
      (∀ ch ∈ tag, 32 ≤ ch ∧ ch ≤ 126) →
      (∀ m < 256, ∀ c ∈ (s.slot m).call, ¬(c.originKind = k ∧ c.originNum = number)) →
      n < 256 → (s.slot n).call = none → (∀ m < n, (s.slot m).call ≠ none) →
      s.arrivalCounter < 4294967295 → ((s.group grp).mode = .day ∨ (s.group grp).night = none) →
      ref = (if (s.slot n).gen = 255 then 1 else (s.slot n).gen + 1) * 256 + n →
      ∃ t, exec (.present kind number cls grp tag) s = .next t ∧
        t.slot n = ⟨if (s.slot n).gen = 255 then 1 else (s.slot n).gen + 1,
          some { newRecord ref k number cls grp tag with
            enqueueTime := s.timeCount, arrivalSeq := s.arrivalCounter + 1,
            deadline := if (s.cls cls).overflow = 0 then none
              else some ⟨.queue, s.timeCount, (s.cls cls).overflow⟩ }⟩ ∧
        t.arrivalCounter = s.arrivalCounter + 1 ∧
        t.group grp = { s.group grp with
          queue := (s.group grp).queue ++ [ref], pairingDue := (t.group grp).pairingDue } ∧
        ((s.group grp).offerMode = .offer → (t.group grp).pairingDue = true) ∧
        t.outbound = s.outbound ++ [.answer .present .ok ref 1 .none] ∧
        (∀ m, m ≠ n → t.slot m = s.slot m) ∧ (∀ g, g ≠ grp → SameGroup g s t) ∧ SamePositions s t ∧
        SameDirectory s t ∧ SameRegisters s t ∧ StatusShown s t) ∧
  (
    ∀ (s : State) (kind number cls grp : Nat) (tag : List Nat) (k : OriginKind) (n ref st : Nat),
      LinkTakes s → readOriginKind kind = some k → number ≤ 4095 → cls ≤ 7 → grp ≤ 3 → tag.length ≤ 12 →
      (∀ ch ∈ tag, 32 ≤ ch ∧ ch ≤ 126) →
      (∀ m < 256, ∀ c ∈ (s.slot m).call, ¬(c.originKind = k ∧ c.originNum = number)) →
      n < 256 → (s.slot n).call = none → (∀ m < n, (s.slot m).call ≠ none) →
      s.arrivalCounter < 4294967295 → (s.group grp).mode = .night → (s.group grp).night = some st →
      ref = (if (s.slot n).gen = 255 then 1 else (s.slot n).gen + 1) * 256 + n →
      ∃ t, exec (.present kind number cls grp tag) s = .next t ∧
        t.slot n = ⟨if (s.slot n).gen = 255 then 1 else (s.slot n).gen + 1,
          some { newRecord ref k number cls grp tag with
            state := .diverting, enqueueTime := s.timeCount, arrivalSeq := s.arrivalCounter + 1 }⟩ ∧
        t.arrivalCounter = s.arrivalCounter + 1 ∧
        t.outbound = s.outbound ++ [.answer .present .ok ref 9 .none, .divert ref st .night] ∧
        (∀ m, m ≠ n → t.slot m = s.slot m) ∧ SameGroups s t ∧ SamePositions s t ∧ SameDirectory s t ∧
        SameRegisters s t ∧ StatusShown s t)

/-- A PRESENT with a value out of range is answered BAD_VALUE; one whose origin is live DUPLICATE, with the reference and
state of that record; one that finds no FREE slot TABLE_FULL. Nothing is allocated. -/
def Obligations.PresentRefusals : Prop :=
  ∀ (s : State) (kind number cls grp : Nat) (tag : List Nat), LinkTakes s →
    ((1 < kind ∨ 4095 < number ∨ 7 < cls ∨ 3 < grp ∨ 12 < tag.length ∨ ∃ ch ∈ tag, ch < 32 ∨ 126 < ch) →
      ∃ t, exec (.present kind number cls grp tag) s = .next t ∧
        AnsweredOnly (.answer .present .badValue 0 0 .none) s t) ∧
    (presentValuesOk kind number cls grp tag = true → ∀ k m c, readOriginKind kind = some k → OriginsUnique s →
      m < 256 → (s.slot m).call = some c → c.originKind = k → c.originNum = number →
      ∃ t, exec (.present kind number cls grp tag) s = .next t ∧
        AnsweredOnly (.answer .present .duplicate c.ref c.state.code .none) s t) ∧
    (presentValuesOk kind number cls grp tag = true → ∀ k, readOriginKind kind = some k →
      (∀ m < 256, ∃ c, (s.slot m).call = some c ∧ ¬(c.originKind = k ∧ c.originNum = number)) →
      ∃ t, exec (.present kind number cls grp tag) s = .next t ∧
        AnsweredOnly (.answer .present .tableFull 0 0 .none) s t)

/-- A reference whose generation field is 0 is answered UNKNOWN; one whose generation differs from its slot's STALE; one
that names a FREE slot UNKNOWN, but STALE for the two reports. The answer carries the reference as given, and nothing else
changes. Stated of CLEARED, QUERY, TAKE by reference with every condition, and both reports with every attempt and every
outcome. -/
def Obligations.ReferencesThatNameNoLiveRecord : Prop :=
  ∀ (s : State) (ref : Nat) (i : Instr) (k : ReqKind) (report : Bool), LinkTakes s →
    ((i = .cleared ref ∧ k = .cleared ∧ report = false) ∨ (i = .query ref ∧ k = .query ∧ report = false) ∨
      (∃ cond kind, cond ≤ 2 ∧ i = .take 0 cond kind ref ∧ k = .take ∧ report = false) ∨
      (∃ attempt outcome, 1 ≤ outcome ∧ outcome ≤ 5 ∧ i = .ringResult ref attempt outcome ∧ k = .ringResult ∧
        report = true) ∨
      (∃ outcome, outcome ≤ 1 ∧ i = .divertResult ref outcome ∧ k = .divertResult ∧ report = true)) →
    (ref / 256 = 0 → ∃ t, exec i s = .next t ∧ AnsweredOnly (.answer k .unknown ref 0 .none) s t) ∧
    (ref / 256 ≠ 0 → ref / 256 ≠ (s.slot (ref % 256)).gen →
      ∃ t, exec i s = .next t ∧ AnsweredOnly (.answer k .stale ref 0 .none) s t) ∧
    (ref / 256 ≠ 0 → ref / 256 = (s.slot (ref % 256)).gen → (s.slot (ref % 256)).call = none →
      ∃ t, exec i s = .next t ∧
        AnsweredOnly (.answer k (if report then .stale else .unknown) ref 0 .none) s t)

/-- CLEARED, and TAKE where its condition holds, retire the record: the slot is FREE with its generation kept, the answer
OK carries the state the record had, and a DROP follows it exactly where a destination leg exists. -/
def Obligations.WithdrawalRetiresTheRecord : Prop :=
  ∀ (s : State) (i : Instr) (ref kind : Nat) (c : CallRecord) (k : ReqKind) (notice : Notice),
    LinkTakes s → Names ref c s → Withdraws i ref kind c k notice →
    ∃ t, exec i s = .next t ∧
      t.slot (slotOf ref) = ⟨(s.slot (slotOf ref)).gen, none⟩ ∧
      t.outbound = s.outbound ++ .answer k .ok ref c.state.code .none ::
        (if c.state = .ringingAway ∨ (c.state = .extending ∧
            (c.progress = some .pending ∨ c.progress = some .ringing ∨ c.progress = some .answered))
          then [.drop ref c.attempt] else []) ∧
      SameSlotsBut ref s t ∧ t.arrivalCounter = s.arrivalCounter ∧ t.hunts = s.hunts ∧ SameRegisters s t ∧
      StatusShown s t

/-- Withdrawal empties the record's place, by its state: the queue, the pending offer, the loop and talk path with the notice
CALLER CLEARED or CALL TAKEN where it was the talk call, the camp list or the camp ring. A sweep returns to IDLE where no
other call of the queue is night-bound. Where the position becomes offerable in an OFFER group, a pairing is due; the flag
that says so is the model's own (log 6). -/
def Obligations.WithdrawalEmptiesThePlace : Prop :=
  ∀ (s : State) (i : Instr) (ref kind : Nat) (c : CallRecord) (k : ReqKind) (notice : Notice) (p l : Nat),
    LinkTakes s → Names ref c s → Withdraws i ref kind c k notice → p ∈ positionNumbers →
    (c.state = .queued → ∃ t, exec i s = .next t ∧
      (t.group c.group).queue = (s.group c.group).queue.filter (fun x => x ≠ ref) ∧
      ((∀ r ∈ (s.group c.group).queue, r ≠ ref → ∀ d, s.call r = some d → d.nightBound = false) →
        (t.group c.group).sweep = .idle) ∧
      ((∃ r ∈ (s.group c.group).queue, r ≠ ref ∧ ∃ d, s.call r = some d ∧ d.nightBound = true) →
        (t.group c.group).sweep = (s.group c.group).sweep) ∧
      (∀ g, g ≠ c.group → SameGroup g s t) ∧ SamePositions s t ∧ SameDirectory s t) ∧
    (c.state = .offered → (s.pos p).offer = some ref → (∀ q, q ≠ p → (s.pos q).offer ≠ some ref) →
      ∃ t, exec i s = .next t ∧ t.pos p = { s.pos p with offer := none, buffer := (t.pos p).buffer } ∧
        PairingFollows p s t ∧ SamePositionsBut p s t ∧ SameGroups s t ∧ SameDirectory s t) ∧
    (c.state = .talking ∨ c.state = .extending → OnTalkPath p l c s → ∃ t, exec i s = .next t ∧
      (∀ m, (t.pos p).loopAt m = if m = l then none else (s.pos p).loopAt m) ∧
      t.pos p = { s.pos p with
        loops := (t.pos p).loops, talkLoop := none, notice := some notice, dialled := none,
        idleSince := s.timeCount, buffer := (t.pos p).buffer } ∧
      PairingFollows p s t ∧ SamePositionsBut p s t ∧ SameGroups s t ∧ SameDirectory s t) ∧
    (c.state = .held ∨ c.state = .recalling → c.home = some p → c.loop = some l → (s.pos p).talkLoop ≠ some l →
      ∃ t, exec i s = .next t ∧ (∀ m, (t.pos p).loopAt m = if m = l then none else (s.pos p).loopAt m) ∧
        t.pos p = { s.pos p with loops := (t.pos p).loops, buffer := (t.pos p).buffer } ∧
        PairingFollows p s t ∧ SamePositionsBut p s t ∧ SameGroups s t ∧ SameDirectory s t) ∧
    (∀ st, c.state = .camped → c.curDest = some st → ∃ t, exec i s = .next t ∧
      t.station st = { s.station st with campList := (s.station st).campList.filter (fun x => x ≠ ref) } ∧
      (∀ x, x ≠ st → t.station x = s.station x) ∧ SameGroups s t ∧ SamePositions s t) ∧
    (∀ st, c.state = .ringingAway → c.fromCamp = true → c.curDest = some st → ∃ t, exec i s = .next t ∧
      t.station st = { s.station st with ring := none } ∧ (∀ x, x ≠ st → t.station x = s.station x) ∧
      SameGroups s t ∧ SamePositions s t) ∧
    (c.state = .diverting ∨ (c.state = .ringingAway ∧ c.fromCamp = false) → ∃ t, exec i s = .next t ∧
      SameGroups s t ∧ SamePositions s t ∧ SameDirectory s t)

/-- A TAKE whose condition does not hold in the record's state is answered NOT_IN_STATE and leaves the record; a TAKE by
origin acts on the one live record of that origin, and is answered UNKNOWN with reference 0 where there is none. A TAKE with
a selector or condition of no name, or an origin out of range, is answered BAD_VALUE and changes nothing; the answer carries
the reference given, and where none was given a free value (log 10). -/
def Obligations.TakeTestsItsConditionAndOrigin : Prop :=
  (
    ∀ (s : State) (cond : Nat) (cd : TakeCondition), LinkTakes s → readCondition cond = some cd →
      (∀ ref c kind, Names ref c s → cd.holds c.state = false → ∃ t, exec (.take 0 cond kind ref) s = .next t ∧
        AnsweredOnly (.answer .take .notInState ref c.state.code .none) s t) ∧
      (∀ kind k number c, readOriginKind kind = some k → number ≤ 4095 → OriginsUnique s → Names c.ref c s →
        c.originKind = k → c.originNum = number →
        exec (.take 1 cond kind number) s = exec (.take 0 cond 0 c.ref) s) ∧
      (∀ kind k number, readOriginKind kind = some k → number ≤ 4095 →
        (∀ m < 256, ∀ c ∈ (s.slot m).call, ¬(c.originKind = k ∧ c.originNum = number)) →
        ∃ t, exec (.take 1 cond kind number) s = .next t ∧ AnsweredOnly (.answer .take .unknown 0 0 .none) s t)) ∧
  (
    ∀ (s : State) (selector cond kind value : Nat), LinkTakes s →
      (selector = 0 → 2 < cond → ∃ t, exec (.take selector cond kind value) s = .next t ∧
        AnsweredOnly (.answer .take .badValue value 0 .none) s t) ∧
      (1 < selector ∨ (selector = 1 ∧ (2 < cond ∨ 1 < kind ∨ 4095 < value)) →
        ∃ t r, exec (.take selector cond kind value) s = .next t ∧ r < 65536 ∧
          AnsweredOnly (.answer .take .badValue r 0 .none) { s with freeDraws := s.freeDraws + 1 } t))

/-- QUERY answers OK with the record's image as it stands, UNKNOWN or STALE as R3 gives, and changes no state: where no
moment of an event is outstanding and no output buffer is above its 16 messages, every table reads as before. -/
def Obligations.QueryAnswersTheImage : Prop :=
  ∀ (s : State) (ref : Nat), LinkTakes s → s.moments = [] → (∀ p, (s.pos p).buffer.length ≤ 16) →
    ∃ t a, exec (.query ref) s = .next t ∧ t.outbound = s.outbound ++ [a] ∧
      (ref / 256 = 0 → a = .answer .query .unknown ref 0 .none) ∧
      (ref / 256 ≠ 0 → ref / 256 ≠ (s.slot (ref % 256)).gen → a = .answer .query .stale ref 0 .none) ∧
      (ref / 256 ≠ 0 → ref / 256 = (s.slot (ref % 256)).gen → (s.slot (ref % 256)).call = none →
        a = .answer .query .unknown ref 0 .none) ∧
      (∀ c, Names ref c s → a = .answer .query .ok ref c.state.code (.image (imageOf c s.timeCount))) ∧
      (∀ n, t.slot n = s.slot n) ∧ (∀ g, t.group g = s.group g) ∧ (∀ p, t.pos p = s.pos p) ∧ SameDirectory s t ∧
      t.arrivalCounter = s.arrivalCounter ∧ SameRegisters s t ∧ StatusShown s t

/-- A valid SCAN starts a scan that examines the repeat count plus 1 slots, cut at slot 255, and answers nothing yet; a
repeat count above 15 is answered BAD_VALUE and starts nothing. A scan step counts its slot as examined, queues the image
of a live record and nothing for a FREE slot, and the last one queues the closing answer and ends the scan. -/
def Obligations.ScanExaminesItsSlots : Prop :=
  (∀ (s : State) (first rep : Nat), LinkTakes s → first < 256 →
    (rep ≤ 15 → ∃ t, exec (.scan first rep) s = .next t ∧
      t.scan = some ⟨first, first, if first + rep < 256 then rep + 1 else 256 - first, 0, 0⟩ ∧
      t.outbound = s.outbound ∧ (∀ n, t.slot n = s.slot n) ∧ SameGroups s t ∧ SamePositions s t ∧ SameDirectory s t ∧
      SameRegisters { s with scan := t.scan } t ∧ StatusShown s t) ∧
    (15 < rep → ∃ t, exec (.scan first rep) s = .next t ∧
      AnsweredOnly (.answer .scan .badValue 0 0 (.scanBad first rep)) s t)) ∧
  (∀ (s : State) (sc : Scan) (image : List Msg) (found : Nat), Admits s → s.scan = some sc → 1 ≤ sc.left →
    (((s.slot sc.next).call = none ∧ image = [] ∧ found = sc.found) ∨
      (∃ c, (s.slot sc.next).call = some c ∧ found = sc.found + 1 ∧
        image = [.answer .scan .ok c.ref c.state.code (.image (imageOf c s.timeCount))])) →
    ∃ t, exec .scanStep s = .next t ∧ (∀ n, t.slot n = s.slot n) ∧ SameGroups s t ∧ SamePositions s t ∧
      SameDirectory s t ∧ SameRegisters { s with scan := t.scan } t ∧ SameLink s t ∧
      (2 ≤ sc.left → t.scan = some ⟨sc.first, sc.next + 1, sc.left - 1, found, sc.examined + 1⟩ ∧
        t.outbound = s.outbound ++ image) ∧
      (sc.left = 1 → t.scan = none ∧
        t.outbound = s.outbound ++ image ++ [.answer .scan .ok 0 0 (.scanClosing sc.first (sc.examined + 1) found)]))

/-! ## Reports -/

/-- A report in time at the talk call of a position: RINGING, ANSWERED, BUSY, and the return to the source by REFUSED and
GONE with its notice; an ATTACH SOURCE where the talk side was DEST. RINGING at a blind extend that is PENDING releases the
call in the same event: RINGING_AWAY with its deadline kept, the loop and the talk path emptied; the answer carries state 6,
no order is issued, and where the position becomes offerable in an OFFER group, a pairing is due; the flag that says so is
the model's own (log 6). -/
def Obligations.RingResultAtAnExtendingCall : Prop :=
  (
    ∀ (s : State) (ref attempt p l : Nat) (c : CallRecord), LinkTakes s → Names ref c s → p ∈ positionNumbers →
      OnTalkPath p l c s → c.state = .extending → c.attempt = attempt →
      ∀ (outcome code : Nat) (d : CallRecord) (notice : Option Notice) (orders : List Msg),
      ((outcome = 1 ∧ ((c.progress = some .pending ∧ c.mode = .screened) ∨ c.progress = some .ringing) ∧ code = 5 ∧
          d = { c with progress := some .ringing } ∧ notice = (s.pos p).notice ∧ orders = []) ∨
        (outcome = 2 ∧ (c.progress = some .pending ∨ c.progress = some .ringing) ∧ code = 5 ∧
          d = { c with progress := some .answered, deadline := none } ∧ notice = (s.pos p).notice ∧ orders = []) ∨
        (outcome = 3 ∧ (c.progress = some .pending ∨ c.progress = some .ringing) ∧ code = 5 ∧
          d = { c with progress := some .busy, talkSide := some .source, deadline := none } ∧
          notice = (s.pos p).notice ∧ orders = if c.talkSide = some .dest then [.attach ref p .source] else []) ∨
        (outcome = 4 ∧ (c.progress = some .pending ∨ c.progress = some .ringing) ∧ code = 3 ∧
          d = { c with state := .talking, talkSide := some .source, progress := none, deadline := none } ∧
          notice = some .refused ∧ orders = if c.talkSide = some .dest then [.attach ref p .source] else []) ∨
        (outcome = 5 ∧ (c.progress = some .pending ∨ c.progress = some .ringing ∨ c.progress = some .answered) ∧
          code = 3 ∧ d = { c with state := .talking, talkSide := some .source, progress := none, deadline := none } ∧
          notice = some .destCleared ∧ orders = if c.talkSide = some .dest then [.attach ref p .source] else [])) →
      ∃ t, exec (.ringResult ref attempt outcome) s = .next t ∧ t.call ref = some d ∧
        t.outbound = s.outbound ++ .answer .ringResult .ok ref code .none :: orders ∧
        t.pos p = { s.pos p with notice := notice, buffer := (t.pos p).buffer } ∧ SamePositionsBut p s t ∧
        SameSlotsBut ref s t ∧ SameGroups s t ∧ SameDirectory s t ∧ t.arrivalCounter = s.arrivalCounter ∧
        SameRegisters s t ∧ StatusShown s t) ∧
  (
    ∀ (s : State) (ref p l : Nat) (c : CallRecord), LinkTakes s → Names ref c s → p ∈ positionNumbers →
      OnTalkPath p l c s → c.state = .extending → c.mode = .blind → c.progress = some .pending →
      ∃ t, exec (.ringResult ref c.attempt 1) s = .next t ∧
        t.call ref = some { c with
          state := .ringingAway, progress := some .ringing, talkSide := none, loop := none } ∧
        (∀ m, (t.pos p).loopAt m = if m = l then none else (s.pos p).loopAt m) ∧
        t.pos p = { s.pos p with
          loops := (t.pos p).loops, talkLoop := none, dialled := none, idleSince := s.timeCount,
          buffer := (t.pos p).buffer } ∧
        t.outbound = s.outbound ++ [.answer .ringResult .ok ref 6 .none] ∧ PairingFollows p s t ∧
        SamePositionsBut p s t ∧ SameSlotsBut ref s t ∧ SameGroups s t ∧ SameDirectory s t ∧ SameRegisters s t ∧
        StatusShown s t)

/-- A report is answered LATE and changes nothing where the record is in a state other than EXTENDING and RINGING_AWAY,
where the attempt differs, or where the progress admits only GONE or nothing. An outcome value outside the five is
answered BAD_VALUE. -/
def Obligations.LateAndBadReports : Prop :=
  ∀ (s : State) (ref attempt outcome : Nat) (c : CallRecord), LinkTakes s →
    (Names ref c s → 1 ≤ outcome → outcome ≤ 5 →
      ((c.state ≠ .extending ∧ c.state ≠ .ringingAway) ∨ c.attempt ≠ attempt ∨
        (c.state = .extending ∧ c.progress = some .answered ∧ outcome ≠ 5) ∨
        (c.state = .extending ∧ c.progress = some .busy)) →
      ∃ t, exec (.ringResult ref attempt outcome) s = .next t ∧
        AnsweredOnly (.answer .ringResult .late ref c.state.code .none) s t) ∧
    (outcome = 0 ∨ 5 < outcome → ∃ t, exec (.ringResult ref attempt outcome) s = .next t ∧
      AnsweredOnly (.answer .ringResult .badValue ref 0 .none) s t)

/-- Reports at a call ringing away: RINGING; ANSWERED bridges and retires; BUSY camps automatically where the station allows
it and has room, or returns a camp ring to the head of its list while its camp time runs. The reports that end in a recall
instead are stated in RecallsLandOnTheHomePosition and RecallsDivertAtTheLimitOrRequeue. -/
def Obligations.RingResultAtACallRingingAway : Prop :=
  ∀ (s : State) (ref st : Nat) (c : CallRecord), LinkTakes s → Names ref c s → c.state = .ringingAway →
    (c.progress = some .pending ∨ c.progress = some .ringing) → c.curDest = some st →
    (∃ t, exec (.ringResult ref c.attempt 1) s = .next t ∧ t.call ref = some { c with progress := some .ringing } ∧
      t.outbound = s.outbound ++ [.answer .ringResult .ok ref 6 .none] ∧ SameSlotsBut ref s t ∧ SameGroups s t ∧
      SamePositions s t ∧ SameDirectory s t ∧ SameRegisters s t) ∧
    (∃ t, exec (.ringResult ref c.attempt 2) s = .next t ∧ t.call ref = none ∧
      t.outbound = s.outbound ++ [.answer .ringResult .ok ref 6 .none, .bridge ref] ∧
      t.station st = (if c.fromCamp then { s.station st with ring := none } else s.station st) ∧
      (∀ x, x ≠ st → t.station x = s.station x) ∧ (c.loop = none → SamePositions s t) ∧ SameSlotsBut ref s t ∧
      SameGroups s t ∧ SameRegisters s t) ∧
    (c.fromCamp = false → (s.station st).campAllowed = true → (s.station st).occupancy < 3 → poolOccupancy s < 64 →
      ∃ t, exec (.ringResult ref c.attempt 3) s = .next t ∧
        t.call ref = some { c with
          state := .camped, progress := none, talkSide := none, campStart := some s.timeCount,
          deadline := some ⟨.camp, s.timeCount, s.timers.camp⟩ } ∧
        t.station st = { s.station st with campList := (s.station st).campList ++ [ref] } ∧
        (∀ x, x ≠ st → t.station x = s.station x) ∧
        t.outbound = s.outbound ++ [.answer .ringResult .ok ref 7 .none] ∧ SameSlotsBut ref s t ∧ SameGroups s t ∧
        SamePositions s t ∧ SameRegisters s t) ∧
    (∀ cs, c.fromCamp = true → (s.station st).ring = some ref → c.campStart = some cs →
      s.timeCount < cs + s.timers.camp →
      ∃ t, exec (.ringResult ref c.attempt 3) s = .next t ∧
        t.call ref = some { c with
          state := .camped, fromCamp := false, progress := none, deadline := some ⟨.camp, cs, s.timers.camp⟩ } ∧
        t.station st = { s.station st with campList := ref :: (s.station st).campList, ring := none } ∧
        (∀ x, x ≠ st → t.station x = s.station x) ∧
        t.outbound = s.outbound ++ [.answer .ringResult .ok ref 7 .none] ∧ SameSlotsBut ref s t ∧ SameGroups s t ∧
        SamePositions s t ∧ SameRegisters s t)

/-- A DIVERT_RESULT OK retires the DIVERTING record, with state 9 in the answer; a later report of the reference is
answered STALE, and any other request naming it UNKNOWN, while the slot stays FREE. -/
def Obligations.DivertResultOkRetires : Prop :=
  ∀ (s : State) (ref : Nat) (c : CallRecord), LinkTakes s → Names ref c s → c.state = .diverting →
    ∃ t, exec (.divertResult ref 0) s = .next t ∧
      t.slot (slotOf ref) = ⟨(s.slot (slotOf ref)).gen, none⟩ ∧
      t.outbound = s.outbound ++ [.answer .divertResult .ok ref 9 .none] ∧
      resolve true ref t = .stale ∧ resolve false ref t = .unknown ∧
      SameSlotsBut ref s t ∧ SameGroups s t ∧ SamePositions s t ∧ SameDirectory s t ∧
      t.arrivalCounter = s.arrivalCounter ∧ SameRegisters s t ∧ StatusShown s t

/-- A DIVERT_RESULT FAILED returns the call to its ordered place in its group's queue, flagged divert-failed and in warning,
with no deadline; a record that is not DIVERTING answers LATE, and an outcome above 1 BAD_VALUE. The flag that a pairing is
due is the model's own (log 6). -/
def Obligations.DivertResultFailedReturnsTheCall : Prop :=
  ∀ (s : State) (ref : Nat) (c : CallRecord), LinkTakes s →
    (Names ref c s → c.state = .diverting → ∃ t, exec (.divertResult ref 1) s = .next t ∧
      t.call ref = some { c with
        state := .queued, divertFailed := true, warning := true, nightBound := false, deadline := none } ∧
      (∃ ahead behind, (s.group c.group).queue = ahead ++ behind ∧ (t.group c.group).queue = ahead ++ ref :: behind ∧
        (∀ r ∈ ahead, ∀ d, s.call r = some d → d.arrivalSeq ≤ c.arrivalSeq) ∧
        (∀ r ∈ behind.head?, ∃ d, s.call r = some d ∧ c.arrivalSeq < d.arrivalSeq)) ∧
      ((s.group c.group).offerMode = .offer → (t.group c.group).pairingDue = true) ∧
      t.outbound = s.outbound ++ [.answer .divertResult .ok ref 1 .none] ∧ SameSlotsBut ref s t ∧
      (∀ g, g ≠ c.group → SameGroup g s t) ∧ SamePositions s t ∧ SameDirectory s t ∧ SameRegisters s t) ∧
    (Names ref c s → c.state ≠ .diverting → ∀ outcome ≤ 1, ∃ t, exec (.divertResult ref outcome) s = .next t ∧
      AnsweredOnly (.answer .divertResult .late ref c.state.code .none) s t) ∧
    (∀ outcome, 1 < outcome → ∃ t, exec (.divertResult ref outcome) s = .next t ∧
      AnsweredOnly (.answer .divertResult .badValue ref 0 .none) s t)

/-! ## Station Directory -/

/-- STATION_ATTR writes both flags of the entry whole and answers OK with the station and the flags; a station above 4095 is
answered BAD_VALUE with the number as given. State, camp list and camp ring stay, and no order is issued. -/
def Obligations.StationAttrWritesBothFlags : Prop :=
  ∀ (s : State) (station : Nat) (prot camp : Bool) (flags : Nat), LinkTakes s → flags.testBit 0 = prot →
    flags.testBit 1 = camp →
    (station ≤ 4095 → ∃ t, exec (.stationAttr station flags) s = .next t ∧
      t.station station = { s.station station with prot := prot, campAllowed := camp } ∧
      (∀ x, x ≠ station → t.station x = s.station x) ∧ t.hunts = s.hunts ∧
      t.outbound = s.outbound ++ [.answer .stationAttr .ok 0 0 (.attrWritten station prot camp)] ∧
      (∀ n, t.slot n = s.slot n) ∧ SameGroups s t ∧ SamePositions s t ∧ SameRegisters s t ∧ StatusShown s t) ∧
    (4095 < station → ∃ t, exec (.stationAttr station flags) s = .next t ∧
      AnsweredOnly (.answer .stationAttr .badValue 0 0 (.stationBad station)) s t)

/-- STATION_STATE writes the state and answers with the state before, the state written, and the list and ring after the
update. Where no camp ring starts and no camp list is recalled, nothing else changes; a station above 4095 or a code above 4
is answered BAD_VALUE. -/
def Obligations.StationStateWritesTheState : Prop :=
  ∀ (s : State) (station code : Nat) (new : StationState), LinkTakes s →
    (readStationState code = some new → station ≤ 4095 →
      ((s.station station).campList = [] ∨ new = .busy ∨ new = .ringing ∨
        (new = .idle ∧ (s.station station).ring.isSome = true)) →
      ∃ t, exec (.stationState station code) s = .next t ∧
        t.station station = { s.station station with state := new } ∧
        (∀ x, x ≠ station → t.station x = s.station x) ∧ t.hunts = s.hunts ∧
        t.outbound = s.outbound ++ [.answer .stationState .ok 0 0 (.stationWritten station
          (s.station station).state new (s.station station).campList.length (s.station station).ring.isSome)] ∧
        (∀ n, t.slot n = s.slot n) ∧ SameGroups s t ∧ SamePositions s t ∧ SameRegisters s t ∧ StatusShown s t) ∧
    ((4095 < station ∨ 4 < code) → ∃ t, exec (.stationState station code) s = .next t ∧
      AnsweredOnly (.answer .stationState .badValue 0 0 (.stationBad station)) s t)

/-- IDLE at a station with a camp list and no camp ring makes the oldest camper the camp ring: RINGING_AWAY from camp, with
the next attempt and a no-answer deadline, and a RING order behind the answer. DND and OUT recall the campers. One camper,
below the recall limit, whose home position is signed in with a free loop, lands RECALLING on the lowest of them, with a
NOTICE tone behind its lamp. Several are recalled in one event, oldest first, each lamp on FAST and its NOTICE tone ahead of
those of the next at the same console (the order of a lamp and its tone: log 7): each lands on a free loop of its home
position, the older one on the lower loop, or is queued in class 1, the older one ahead, or is diverted, its order behind
the answer. -/
def Obligations.StationUpdatesServeTheCampList : Prop :=
  (
    ∀ (s : State) (station ref : Nat) (rest : List Nat) (c : CallRecord), LinkTakes s → station ≤ 4095 →
      (s.station station).campList = ref :: rest → (s.station station).ring = none → s.call ref = some c →
      ∃ t, exec (.stationState station 0) s = .next t ∧
        t.station station = { s.station station with state := .idle, campList := rest, ring := some ref } ∧
        (∀ x, x ≠ station → t.station x = s.station x) ∧
        t.call ref = some { c with
          state := .ringingAway, fromCamp := true, progress := some .pending, attempt := (c.attempt + 1) % 256,
          deadline := some ⟨.noAnswer, s.timeCount, s.timers.noAnswer⟩ } ∧
        t.outbound = s.outbound ++ [.answer .stationState .ok 0 0 (.stationWritten station
          (s.station station).state .idle rest.length true), .ring ref station ((c.attempt + 1) % 256)] ∧
        SameSlotsBut ref s t ∧ SameGroups s t ∧ SamePositions s t ∧ SameRegisters s t ∧ StatusShown s t) ∧
  (
    ∀ (s : State) (station code ref p l : Nat) (new : StationState) (c : CallRecord) (more : List Nat),
      LinkTakes s → station ≤ 4095 → readStationState code = some new → (new = .dnd ∨ new = .out) →
      (s.station station).campList = [ref] → Names ref c s → c.state = .camped → c.home = some p →
      p ∈ positionNumbers → (s.pos p).avail ≠ .signedOut → (s.pos p).freeLoops = l :: more →
      c.recallCount + 1 < s.recallLimit →
      ∃ t, exec (.stationState station code) s = .next t ∧
        t.station station = { s.station station with state := new, campList := [] } ∧
        t.call ref = some { c with
          state := .recalling, loop := some l, progress := none, talkSide := none, fromCamp := false, campStart := none,
          group := (s.pos p).group, recallCount := c.recallCount + 1,
          deadline := some ⟨.recallRing, s.timeCount, s.timers.recallRing⟩ } ∧
        (∀ m, (t.pos p).loopAt m = if m = l then some ref else (s.pos p).loopAt m) ∧
        t.pos p = { s.pos p with loops := (t.pos p).loops, buffer := (t.pos p).buffer } ∧
        t.outbound = s.outbound ++ [.answer .stationState .ok 0 0 (.stationWritten station
          (s.station station).state new 0 (s.station station).ring.isSome)] ∧
        (s.moments = [] → Told [.notice] p s t) ∧ SameSlotsBut ref s t ∧ SamePositionsBut p s t ∧ SameGroups s t ∧ SameRegisters s t ∧ StatusShown s t) ∧
  (
    ∀ (s : State) (station code : Nat) (new : StationState),
      LinkTakes s → station ≤ 4095 → readStationState code = some new → (new = .dnd ∨ new = .out) →
      (s.station station).campList.Nodup →
      (∀ r ∈ (s.station station).campList, ∃ c p, Live r c s ∧ c.state = .camped ∧ c.loop = none ∧ c.home = some p ∧
        p ∈ positionNumbers) →
      s.arrivalCounter + (s.station station).campList.length ≤ 4294967295 →
      ∃ t orders, exec (.stationState station code) s = .next t ∧
        t.station station = { s.station station with state := new, campList := [] } ∧
        (∀ x, x ≠ station → t.station x = s.station x) ∧ t.hunts = s.hunts ∧
        t.outbound = s.outbound ++ .answer .stationState .ok 0 0 (.stationWritten station
          (s.station station).state new 0 (s.station station).ring.isSome) :: orders ∧
        (∀ r ∈ (s.station station).campList, ∃ c p d, Live r c s ∧ c.home = some p ∧ Live r d t ∧ d.home = some p ∧
          d.campStart = none ∧ d.group = (s.pos p).group ∧
          d.recallCount = (if c.recallCount < s.recallLimit then c.recallCount + 1 else c.recallCount) ∧
          ((d.state = .recalling ∧ (∃ l, d.loop = some l ∧ (s.pos p).loopAt l = none ∧ (t.pos p).loopAt l = some r) ∧
              d.deadline = some ⟨.recallRing, s.timeCount, s.timers.recallRing⟩) ∨
            (d.state = .queued ∧ d.queueClass = 1 ∧ r ∈ (t.group d.group).queue ∧ s.arrivalCounter < d.arrivalSeq) ∨
            (d.state = .diverting ∧ d.deadline = none ∧ ∃ x why, .divert r x why ∈ orders))) ∧
        (s.station station).campList.Pairwise (fun a b => ∀ d e, t.call a = some d → t.call b = some e →
          (d.state = .recalling → e.state = .recalling → d.home = e.home → d.loop.getD 0 < e.loop.getD 0) ∧
          (d.state = .queued → e.state = .queued → d.arrivalSeq < e.arrivalSeq)) ∧
        (∀ m ∈ orders, ∃ r ∈ (s.station station).campList, ∃ x why, m = .divert r x why) ∧
        (∀ n, n ∉ (s.station station).campList.map slotOf → t.slot n = s.slot n) ∧
        (∀ p, t.pos p = { s.pos p with loops := (t.pos p).loops, buffer := (t.pos p).buffer }) ∧
        (s.moments = [] → ∀ p ∈ positionNumbers, ∀ landed : List CallRecord,
          landed = ((s.station station).campList.filterMap t.call).filter
            (fun d => d.state = .recalling ∧ d.home = some p) →
          ToldInOrder (landed.map (fun _ => .notice))
            (landed.flatMap (fun d => [.lamp (d.loop.getD 0) .fast, .tone .notice])) p s t) ∧
        SameRegisters s t ∧ StatusShown s t)

/-- STATION_BLOCK starts a block update, its count cut at station 4095, and answers nothing yet; its steps write the
stations' states one by one, and the last one queues the closing answer. A bad value starts nothing. A step does to its
station, its camp list and camp ring, the calls and the consoles what a STATION_STATE of the same station and code does, with
the same orders and no answer of its own. -/
def Obligations.StationBlockUpdatesItsStations : Prop :=
  (∀ (s : State) (first count : Nat) (codes : List Nat), LinkTakes s →
    (first ≤ 4095 → 1 ≤ count → count ≤ 32 → (∀ x ∈ codes, x ≤ 4) →
      ∃ t n, exec (.stationBlock first count codes) s = .next t ∧
        n = (if first + count ≤ 4096 then count else 4096 - first) ∧
        t.block = some ⟨first, n, first, codes.take n⟩ ∧ t.outbound = s.outbound ∧
        (∀ m, t.slot m = s.slot m) ∧ SameGroups s t ∧ SamePositions s t ∧ SameDirectory s t ∧
        SameRegisters { s with block := t.block } t ∧ StatusShown s t) ∧
    ((4095 < first ∨ count = 0 ∨ 32 < count ∨ ∃ x ∈ codes, 4 < x) →
      ∃ t, exec (.stationBlock first count codes) s = .next t ∧
        AnsweredOnly (.answer .stationBlock .badValue 0 0 (.stationBad first)) s t)) ∧
  (∀ (s : State) (b : BlockUpdate) (code : Nat) (rest : List Nat) (new : StationState), Admits s →
    s.block = some b → b.codes = code :: rest → readStationState code = some new →
    (s.station b.next).campList = [] →
    ∃ t, exec .blockUpdateStep s = .next t ∧
      t.station b.next = { s.station b.next with state := new } ∧
      (∀ x, x ≠ b.next → t.station x = s.station x) ∧ t.hunts = s.hunts ∧ (∀ m, t.slot m = s.slot m) ∧
      SameGroups s t ∧ SamePositions s t ∧ SameRegisters { s with block := t.block } t ∧ SameLink s t ∧
      (rest ≠ [] → t.block = some { b with next := b.next + 1, codes := rest } ∧ t.outbound = s.outbound) ∧
      (rest = [] → t.block = none ∧
        t.outbound = s.outbound ++ [.answer .stationBlock .ok 0 0 (.blockClosing b.first b.applied)])) ∧
  (∀ (s : State) (b : BlockUpdate) (code : Nat) (rest : List Nat), Admits s → LinkTakes { s with block := none } →
    s.block = some b → b.codes = code :: rest → code ≤ 4 → b.next ≤ 4095 →
    ∃ t u x orders, exec .blockUpdateStep s = .next t ∧
      exec (.stationState b.next code) { s with block := none } = .next u ∧
      (∀ n, t.slot n = u.slot n) ∧ (∀ g, t.group g = u.group g) ∧ (∀ p, t.pos p = u.pos p) ∧ SameDirectory u t ∧
      t.arrivalCounter = u.arrivalCounter ∧ u.outbound = s.outbound ++ x :: orders ∧
      (rest ≠ [] → t.block = some { b with next := b.next + 1, codes := rest } ∧ t.outbound = s.outbound ++ orders) ∧
      (rest = [] → t.block = none ∧
        t.outbound = s.outbound ++ .answer .stationBlock .ok 0 0 (.blockClosing b.first b.applied) :: orders) ∧
      SameRegisters { s with block := t.block } t ∧ SameLink s t)

/-! ## Configuration and RESTART -/

/-- CONFIGURE CLASS, AGE_SHIFT and TIMERS write their items, each value clamped to its range, and answer OK with the clamped
flag. CONFIGURE BYPASS_LIMIT and RECALL_LIMIT write the clamped limit; lowering it sets every live record's count above it to
it, and raising it or leaving it unchanged alters no count, in every state whose counts lie within the limits. No other field
of a record changes. -/
def Obligations.ConfigureWritesClampedItems : Prop :=
  (
    ∀ s : State, LinkTakes s →
      (∀ cls base weight overflow, cls ≤ 7 → ∃ t, exec (.configureClass cls base weight overflow) s = .next t ∧
        t.cls cls = ⟨min base 4095, weight, overflow⟩ ∧ (∀ x, x ≠ cls → t.cls x = s.cls x) ∧
        t.outbound = s.outbound ++ [.answer .configure .ok 0 0 (.configure 1 cls (decide (4095 < base)))] ∧
        (∀ n, t.slot n = s.slot n) ∧ SameGroups s t ∧ SamePositions s t ∧ SameDirectory s t ∧
        SameRegisters { s with classes := t.classes } t ∧ StatusShown s t) ∧
      (∀ index shift, ∃ t, exec (.configureAgeShift index shift) s = .next t ∧ t.ageShift = min shift 15 ∧
        t.outbound = s.outbound ++ [.answer .configure .ok 0 0 (.configure 2 index (decide (15 < shift)))] ∧
        (∀ n, t.slot n = s.slot n) ∧ SameGroups s t ∧ SamePositions s t ∧ SameDirectory s t ∧
        SameRegisters { s with ageShift := t.ageShift } t ∧ StatusShown s t) ∧
      (∀ index w o h r n c x, ∃ t, exec (.configureTimers index w o h r n c x) s = .next t ∧
        t.timers.warning = max 10 (min w 600) ∧ t.timers.offer = max 30 (min o 300) ∧
        t.timers.hold = max 100 (min h 6000) ∧ t.timers.recallRing = max 50 (min r 600) ∧
        t.timers.noAnswer = max 50 (min n 1200) ∧ t.timers.camp = max 100 (min c 3000) ∧
        t.timers.sweep = max 1 (min x 50) ∧
        t.outbound = s.outbound ++ [.answer .configure .ok 0 0 (.configure 7 index
          (decide (t.timers ≠ ⟨w, o, h, r, n, c, x⟩)))] ∧
        (∀ n, t.slot n = s.slot n) ∧ SameGroups s t ∧ SamePositions s t ∧ SameDirectory s t ∧
        SameRegisters { s with timers := t.timers } t ∧ StatusShown s t)) ∧
  (
    ∀ (s : State) (index x : Nat), LinkTakes s → CountsWithinLimits s →
      (∃ t, exec (.configureBypassLimit index x) s = .next t ∧ t.bypassLimit = min x 8 ∧
        (∀ n, t.slot n = { s.slot n with
          call := (s.slot n).call.map (fun c => { c with bypass := min c.bypass (min x 8) }) }) ∧
        (s.bypassLimit ≤ min x 8 → ∀ n, t.slot n = s.slot n) ∧
        t.outbound = s.outbound ++ [.answer .configure .ok 0 0 (.configure 3 index (decide (8 < x)))] ∧
        SameGroups s t ∧ SamePositions s t ∧ SameDirectory s t ∧
        SameRegisters { s with bypassLimit := t.bypassLimit } t ∧ StatusShown s t) ∧
      (∃ t, exec (.configureRecallLimit index x) s = .next t ∧ t.recallLimit = max 1 (min x 7) ∧
        (∀ n, t.slot n = { s.slot n with
          call := (s.slot n).call.map (fun c => { c with recallCount := min c.recallCount (max 1 (min x 7)) }) }) ∧
        (s.recallLimit ≤ max 1 (min x 7) → ∀ n, t.slot n = s.slot n) ∧
        t.outbound = s.outbound ++ [.answer .configure .ok 0 0 (.configure 4 index (decide (x = 0 ∨ 7 < x)))] ∧
        SameGroups s t ∧ SamePositions s t ∧ SameDirectory s t ∧
        SameRegisters { s with recallLimit := t.recallLimit } t ∧ StatusShown s t))

/-- CONFIGURE GROUP writes its six fields, the alarm depth clamped; a change from PULL to OFFER calls for a pairing.
CONFIGURE HUNT writes the range whole, its next pointer at the first station, or returns it to unconfigured. The flag that a
pairing is due is the model's own (log 6). -/
def Obligations.ConfigureGroupAndHunt : Prop :=
  (
    ∀ (s : State) (grp mode policy ovf night sweep depth : Nat) (m : OfferMode) (q : TransferPolicy) (w : SweepPolicy),
      LinkTakes s → grp ≤ 3 → readOfferMode mode = some m → readPolicy policy = some q → readSweepPolicy sweep = some w →
      (ovf ≤ 4095 ∨ ovf = 65535) → (night ≤ 4095 ∨ night = 65535) →
      ∃ t, exec (.configureGroup grp mode policy ovf night sweep depth) s = .next t ∧
        t.group grp = { s.group grp with
          offerMode := m, policy := q, overflow := if ovf = 65535 then none else some ovf,
          night := if night = 65535 then none else some night, sweepPolicy := w, alarmDepth := max 1 (min depth 64),
          pairingDue := (t.group grp).pairingDue } ∧
        ((s.group grp).offerMode = .pull → m = .offer → (t.group grp).pairingDue = true) ∧
        (∀ g, g ≠ grp → SameGroup g s t) ∧
        t.outbound = s.outbound ++ [.answer .configure .ok 0 0 (.configure 5 grp (decide (depth = 0 ∨ 64 < depth)))] ∧
        (∀ n, t.slot n = s.slot n) ∧ SamePositions s t ∧ SameDirectory s t ∧ SameRegisters s t ∧ StatusShown s t) ∧
  (
    ∀ (s : State) (h first last dir mode : Nat) (d : HuntDir) (m : HuntMode), LinkTakes s → h ≤ 15 →
      (readDir dir = some d → readHuntMode mode = some m → first ≤ 4095 → last ≤ 4095 →
        ((d = .up ∧ first ≤ last) ∨ (d = .down ∧ last ≤ first)) →
        ∃ t, exec (.configureHunt h 1 first last dir mode) s = .next t ∧
          t.huntRange h = some ⟨first, last, d, m, first⟩ ∧ (∀ x, x ≠ h → t.huntRange x = s.huntRange x) ∧
          t.stations = s.stations ∧ t.outbound = s.outbound ++ [.answer .configure .ok 0 0 (.configure 8 h false)] ∧
          (∀ n, t.slot n = s.slot n) ∧ SameGroups s t ∧ SamePositions s t ∧ SameRegisters s t ∧ StatusShown s t) ∧
      (∃ t, exec (.configureHunt h 0 first last dir mode) s = .next t ∧ t.huntRange h = none ∧
        (∀ x, x ≠ h → t.huntRange x = s.huntRange x) ∧
        t.outbound = s.outbound ++ [.answer .configure .ok 0 0 (.configure 8 h false)]))

/-- CONFIGURE POSITION: values already held alter nothing; a signed-in or releasing position answers IN_USE; else the flag
and the group are written, a change of the flag sets the link state as after hardware reset, and a position moved with its
console present receives the ten messages of a full refresh. What becomes of a poll and an exchange in progress at a change
of the flag is the model's choice (log 12). -/
def Obligations.ConfigurePositionWritesThePosition : Prop :=
  ∀ (s : State) (p flag grp : Nat) (e : Bool), LinkTakes s → p ∈ positionNumbers → grp ≤ 3 → readFlag flag = some e →
    (e = (s.pos p).enabled → grp = (s.pos p).group →
      ∃ t, exec (.configurePosition p flag grp) s = .next t ∧
        AnsweredOnly (.answer .configure .ok 0 0 (.configure 6 p false)) s t) ∧
    ((e ≠ (s.pos p).enabled ∨ grp ≠ (s.pos p).group) →
      ((s.pos p).avail ≠ .signedOut ∨ (s.pos p).releaseList ≠ []) →
      ∃ t, exec (.configurePosition p flag grp) s = .next t ∧
        AnsweredOnly (.answer .configure .inUse 0 0 (.configure 6 p false)) s t) ∧
    (e ≠ (s.pos p).enabled → (s.pos p).avail = .signedOut → (s.pos p).releaseList = [] →
      ∃ t, exec (.configurePosition p flag grp) s = .next t ∧
        t.pos p = { s.pos p with
          enabled := e, group := grp, missed := 3, present := false, outSeq := false, sync := true, inFlight := false,
          lastIn := false, buffer := [], intake := [] } ∧ p ∉ t.toPoll ∧
        t.outbound = s.outbound ++ [.answer .configure .ok 0 0 (.configure 6 p false)] ∧ SamePositionsBut p s t ∧
        (∀ n, t.slot n = s.slot n) ∧ SameGroups s t ∧ SameDirectory s t ∧
        SameRegisters { s with toPoll := t.toPoll, exchange := t.exchange, waiting := t.waiting } t) ∧
    (e = (s.pos p).enabled → grp ≠ (s.pos p).group → (s.pos p).avail = .signedOut → (s.pos p).releaseList = [] →
      s.moments = [] →
      ∃ t, exec (.configurePosition p flag grp) s = .next t ∧
        t.pos p = { s.pos p with group := grp, buffer := (t.pos p).buffer } ∧
        ((s.pos p).present = true → (t.pos p).buffer =
          (if (s.pos p).inFlight then (s.pos p).buffer.take 1 else []) ++ wholeImage p t) ∧
        t.outbound = s.outbound ++ [.answer .configure .ok 0 0 (.configure 6 p false)] ∧ SamePositionsBut p s t ∧
        (∀ n, t.slot n = s.slot n) ∧ SameGroups s t ∧ SameDirectory s t ∧ SameRegisters s t)

/-- A CONFIGURE item with a value that R208 refuses, and an item code of no item, are answered BAD_VALUE with the clamped
flag clear, and nothing is written. That FFFFh is refused as a station of a HUNT item is read from the spec (log 21). -/
def Obligations.ConfigureBadValuesWriteNothing : Prop :=
  ∀ (s : State) (i : Instr) (item index : Nat), LinkTakes s →
    ((∃ base weight ovf, 7 < index ∧ item = 1 ∧ i = .configureClass index base weight ovf) ∨
      (∃ mode policy ovf night sweep depth,
        (3 < index ∨ 1 < mode ∨ 2 < policy ∨ 1 < sweep ∨ (4095 < ovf ∧ ovf ≠ 65535) ∨
          (4095 < night ∧ night ≠ 65535)) ∧
        item = 5 ∧ i = .configureGroup index mode policy ovf night sweep depth) ∨
      (∃ flag grp, (index = 0 ∨ 8 < index ∨ 1 < flag ∨ 3 < grp) ∧ item = 6 ∧ i = .configurePosition index flag grp) ∨
      (∃ conf first last dir mode,
        (15 < index ∨ 1 < conf ∨ (conf = 1 ∧ (4095 < first ∨ 4095 < last ∨ 1 < dir ∨ 1 < mode ∨
          (dir = 0 ∧ last < first) ∨ (dir = 1 ∧ first < last)))) ∧
        item = 8 ∧ i = .configureHunt index conf first last dir mode) ∨
      i = .configureUnknownItem item index) →
    ∃ t, exec i s = .next t ∧ AnsweredOnly (.answer .configure .badValue 0 0 (.configure item index false)) s t

/-- RESTART clears every call, queue, loop, list and sweep, keeps the configuration, the time count, the directory's states
and the console link's sequence bits, issues no order, and leaves its OK answer as the one message outbound. The flag that a
pairing is due, which RESTART clears, is the model's own (log 6). -/
def Obligations.RestartClearsTheCalls : Prop :=
  ∀ s : State, LinkTakes s → ∃ t, exec .restart s = .next t ∧
    (∀ n, t.slot n = ⟨(s.slot n).gen, none⟩) ∧ t.arrivalCounter = 0 ∧
    (∀ g, t.group g = { s.group g with queue := [], mode := .night, sweep := .idle, pairingDue := false }) ∧
    (∀ p ∈ positionNumbers, (t.pos p).avail = .signedOut ∧ (∀ l, (t.pos p).loopAt l = none) ∧
      (t.pos p).talkLoop = none ∧ (t.pos p).offer = none ∧ (t.pos p).dialled = none ∧ (t.pos p).notice = none ∧
      (t.pos p).releaseList = [] ∧ (t.pos p).idleSince = 0 ∧ (t.pos p).intake = [] ∧
      (t.pos p).enabled = (s.pos p).enabled ∧ (t.pos p).group = (s.pos p).group ∧
      (t.pos p).present = (s.pos p).present ∧ (t.pos p).missed = (s.pos p).missed ∧
      (t.pos p).outSeq = (s.pos p).outSeq ∧ (t.pos p).lastIn = (s.pos p).lastIn ∧ (t.pos p).sync = (s.pos p).sync ∧
      (t.pos p).inFlight = (s.pos p).inFlight ∧
      ((s.pos p).present = true →
        (t.pos p).buffer = (if (s.pos p).inFlight then (s.pos p).buffer.take 1 else []) ++ wholeImage p t)) ∧
    (∀ st, t.station st = { s.station st with campList := [], ring := none }) ∧ t.hunts = s.hunts ∧
    t.outbound = [.answer .restart .ok 0 0 .none] ∧ t.waiting = [] ∧
    SameRegisters { s with waiting := [] } t ∧ StatusShown s t

/-! ## Supervision, queues and night service -/

/-- Every one of the nine expiries, every sweep step, release step, scan step and block update step and every KEY waits while
fewer than 16 entries are free: it joins the waiting events behind those that began to wait before it, once, and has no other
effect. Under what an event waits, that it joins the waiting events when its command comes, and which transaction
has begun before it, are the model's choices (log 4, log 5). -/
def Obligations.AdmittedEventsWaitForTheReserve : Prop :=
  ∀ (s : State) (i : Instr) (w : Waiting), s.phase ≠ .inReset → s.reserveFree = false → AdmittedAs i w s →
    (w ∉ s.waiting → exec i s = .next { s.begun with waiting := s.waiting ++ [w] }) ∧
    (w ∈ s.waiting → exec i s = .next s.begun)

/-- The expiry of a QUEUE deadline: the call enters warning, keeps its place, score, sequence and bypass count, and takes a
WARNING deadline; the group's lamp is FLASH while the call is selectable, and as it was for a night-bound call. -/
def Obligations.QueueExpiryEntersWarning : Prop :=
  ∀ (s : State) (n : Nat) (c : CallRecord), Admits s → Due n .queue c s → c.state = .queued →
    ∃ t, exec (.queueExpiry n) s = .next t ∧
      t.slot n = { s.slot n with call := some { c with
        warning := true, deadline := some ⟨.warning, s.timeCount, s.timers.warning⟩ } } ∧
      (c.nightBound = false → c.ref ∈ (s.group c.group).queue → groupLamp c.group t = .flash) ∧
      (c.nightBound = true → ∀ g, groupLamp g t = groupLamp g s) ∧ t.outbound = s.outbound ∧
      SameSlotsBut c.ref s t ∧ SameGroups s t ∧ SamePositions s t ∧ SameDirectory s t ∧
      t.arrivalCounter = s.arrivalCounter ∧ SameRegisters s t ∧ SameLink s t

/-- The expiry of a WARNING deadline diverts the call with reason OVERFLOW where its group has an overflow station and
divert-failed is clear, the sweep returning to IDLE where no other call of the queue is night-bound; else the call waits on
with no deadline. The expiry of an OFFER deadline puts the position on BREAK and returns the call to its ordered place, with
the queue deadline of R153; that a call flagged divert-failed whose warning is clear, which R153 has no row for, gets none is
the model's choice (log 11), and the flag that a pairing is due is the model's own (log 6). -/
def Obligations.WarningAndOfferExpiries : Prop :=
  (∀ (s : State) (n : Nat) (c : CallRecord), Admits s → Due n .warning c s → c.state = .queued →
    (∀ st, (s.group c.group).overflow = some st → c.divertFailed = false →
      ∃ t, exec (.warningExpiry n) s = .next t ∧
        t.call c.ref = some { c with
          state := .diverting, deadline := none, nightBound := false, loop := none, talkSide := none, progress := none,
          fromCamp := false } ∧
        (t.group c.group).queue = (s.group c.group).queue.filter (fun x => x ≠ c.ref) ∧
        ((∀ r ∈ (s.group c.group).queue, r ≠ c.ref → ∀ d, s.call r = some d → d.nightBound = false) →
          (t.group c.group).sweep = .idle) ∧
        ((∃ r ∈ (s.group c.group).queue, r ≠ c.ref ∧ ∃ d, s.call r = some d ∧ d.nightBound = true) →
          (t.group c.group).sweep = (s.group c.group).sweep) ∧
        t.outbound = s.outbound ++ [.divert c.ref st .overflow] ∧ SameSlotsBut c.ref s t ∧
        (∀ g, g ≠ c.group → SameGroup g s t) ∧ SamePositions s t ∧ SameDirectory s t ∧ SameRegisters s t ∧
        SameLink s t) ∧
    (((s.group c.group).overflow = none ∨ c.divertFailed = true) → ∃ t, exec (.warningExpiry n) s = .next t ∧
      t.call c.ref = some { c with deadline := none } ∧ t.outbound = s.outbound ∧ SameSlotsBut c.ref s t ∧
      SameGroups s t ∧ SamePositions s t ∧ SameDirectory s t ∧ SameRegisters s t ∧ SameLink s t)) ∧
  (∀ (s : State) (n p : Nat) (c d : CallRecord), Admits s → Due n .offer c s → c.state = .offered →
    p ∈ positionNumbers → (s.pos p).offer = some c.ref → (∀ q ∈ positionNumbers, q ≠ p → (s.pos q).offer ≠ some c.ref) →
    ((c.divertFailed = true ∧ d = { c with state := .queued, deadline := none }) ∨
      (c.divertFailed = false ∧ c.warning = true ∧
        d = { c with state := .queued, deadline := some ⟨.warning, s.timeCount, s.timers.warning⟩ }) ∨
      (c.divertFailed = false ∧ c.warning = false ∧ (s.cls c.queueClass).overflow = 0 ∧
        d = { c with state := .queued, deadline := none }) ∨
      (c.divertFailed = false ∧ c.warning = false ∧ s.timeCount < c.enqueueTime + (s.cls c.queueClass).overflow ∧
        (s.cls c.queueClass).overflow ≠ 0 ∧
        d = { c with
          state := .queued, deadline := some ⟨.queue, c.enqueueTime, (s.cls c.queueClass).overflow⟩ }) ∨
      (c.divertFailed = false ∧ c.warning = false ∧ c.enqueueTime + (s.cls c.queueClass).overflow ≤ s.timeCount ∧
        (s.cls c.queueClass).overflow ≠ 0 ∧
        d = { c with
          state := .queued, warning := true,
          deadline := some ⟨.warning, s.timeCount, s.timers.warning⟩ })) →
    ∃ t, exec (.offerExpiry n) s = .next t ∧ t.call c.ref = some d ∧
      t.pos p = { s.pos p with offer := none, avail := .onBreak, buffer := (t.pos p).buffer } ∧
      (∃ ahead behind, (s.group c.group).queue = ahead ++ behind ∧
        (t.group c.group).queue = ahead ++ c.ref :: behind ∧
        (∀ r ∈ ahead, ∀ x, s.call r = some x → x.arrivalSeq ≤ c.arrivalSeq) ∧
        (∀ r ∈ behind.head?, ∃ x, s.call r = some x ∧ c.arrivalSeq < x.arrivalSeq)) ∧
      ((s.group c.group).offerMode = .offer → (t.group c.group).pairingDue = true) ∧ t.outbound = s.outbound ∧
      SameSlotsBut c.ref s t ∧ (∀ g, g ≠ c.group → SameGroup g s t) ∧ SamePositionsBut p s t ∧ SameDirectory s t ∧
      t.arrivalCounter = s.arrivalCounter ∧ SameRegisters s t ∧ SameLink s t)

/-- The expiry of a HOLD deadline recalls the call in place, its recall counted, with one NOTICE tone (behind the messages
of the changed image, log 7), or diverts it at the limit with reason RECALL_LIMIT. The no-answer expiry of an EXTENDING call
drops the leg and returns the call to the source, with the notice NO ANSWER. The expiry of a RECALL_RING deadline empties
the loop and requeues the call at the tail of its home position's group, in class 1 with a fresh enqueue and no recall
counted; in a NIGHT group with a night station the call is diverted with reason NIGHT. The flag that a pairing is due is the
model's own (log 6). -/
def Obligations.HoldNoAnswerAndRecallRingExpiries : Prop :=
  (∀ (s : State) (n p l : Nat) (c : CallRecord), Admits s → Due n .hold c s → c.state = .held →
    c.home = some p → c.loop = some l → p ∈ positionNumbers →
    ((c.recallCount + 1 ≠ s.recallLimit ∨ (s.group (s.pos p).group).overflow = none ∨ c.divertFailed = true) →
      ∃ t, exec (.holdExpiry n) s = .next t ∧
        t.call c.ref = some { c with
          state := .recalling, progress := none, talkSide := none, fromCamp := false, group := (s.pos p).group,
          recallCount := if c.recallCount < s.recallLimit then c.recallCount + 1 else c.recallCount,
          deadline := some ⟨.recallRing, s.timeCount, s.timers.recallRing⟩ } ∧
        (s.moments = [] → Told [.notice] p s t) ∧ t.outbound = s.outbound ∧ SameSlotsBut c.ref s t ∧ SameGroups s t ∧ SamePositions s t ∧ SameDirectory s t ∧
        SameRegisters s t ∧ SameLink s t) ∧
    (∀ st, c.recallCount + 1 = s.recallLimit → (s.group (s.pos p).group).overflow = some st → c.divertFailed = false →
      (s.pos p).talkLoop ≠ some l →
      ∃ t, exec (.holdExpiry n) s = .next t ∧
        t.call c.ref = some { c with
          state := .diverting, progress := none, talkSide := none, fromCamp := false, group := (s.pos p).group,
          recallCount := s.recallLimit, deadline := none, loop := none, nightBound := false } ∧
        (∀ m, (t.pos p).loopAt m = if m = l then none else (s.pos p).loopAt m) ∧
        t.pos p = { s.pos p with loops := (t.pos p).loops, buffer := (t.pos p).buffer } ∧
        t.outbound = s.outbound ++ [.divert c.ref st .recallLimit] ∧ SameSlotsBut c.ref s t ∧ SameGroups s t ∧
        SamePositionsBut p s t ∧ SameDirectory s t ∧ SameRegisters s t ∧ SameLink s t)) ∧
  (∀ (s : State) (n p l : Nat) (c : CallRecord), Admits s → Due n .noAnswer c s → c.state = .extending →
    p ∈ positionNumbers → OnTalkPath p l c s →
    ∃ t, exec (.noAnswerExpiryExtending n) s = .next t ∧
      t.call c.ref = some { c with
        state := .talking, talkSide := some .source, progress := none, deadline := none } ∧
      t.pos p = { s.pos p with notice := some .noAnswer, buffer := (t.pos p).buffer } ∧
      t.outbound = s.outbound ++ .drop c.ref c.attempt ::
        (if c.talkSide = some .dest then [.attach c.ref p .source] else []) ∧
      SameSlotsBut c.ref s t ∧ SameGroups s t ∧ SamePositionsBut p s t ∧ SameDirectory s t ∧ SameRegisters s t ∧
      SameLink s t) ∧
  (
    ∀ (s : State) (n p l g o : Nat) (c : CallRecord), Admits s → Due n .recallRing c s → c.state = .recalling →
      c.home = some p → c.loop = some l → p ∈ positionNumbers → (s.pos p).talkLoop ≠ some l →
      s.arrivalCounter < 4294967295 → c.divertFailed = false → g = (s.pos p).group → o = (s.cls 1).overflow →
      (((s.group g).mode = .day ∨ (s.group g).night = none) →
        ∃ t, exec (.recallRingExpiry n) s = .next t ∧
          t.call c.ref = some { c with
            state := .queued, queueClass := 1, group := g, loop := none, enqueueTime := s.timeCount,
            arrivalSeq := s.arrivalCounter + 1, bypass := 0, warning := false,
            deadline := if o = 0 then none else some ⟨.queue, s.timeCount, o⟩ } ∧
          (t.group g).queue = (s.group g).queue ++ [c.ref] ∧
          ((s.group g).offerMode = .offer → (t.group g).pairingDue = true) ∧
          (∀ m, (t.pos p).loopAt m = if m = l then none else (s.pos p).loopAt m) ∧
          t.pos p = { s.pos p with loops := (t.pos p).loops, buffer := (t.pos p).buffer } ∧
          t.arrivalCounter = s.arrivalCounter + 1 ∧ t.outbound = s.outbound ∧ SameSlotsBut c.ref s t ∧
          (∀ x, x ≠ g → SameGroup x s t) ∧ SamePositionsBut p s t ∧ SameDirectory s t ∧ SameRegisters s t ∧
          SameLink s t) ∧
      (∀ st, (s.group g).mode = .night → (s.group g).night = some st →
        ∃ t, exec (.recallRingExpiry n) s = .next t ∧
          t.call c.ref = some { c with
            state := .diverting, queueClass := 1, group := g, loop := none, enqueueTime := s.timeCount,
            arrivalSeq := s.arrivalCounter + 1, bypass := 0, warning := false, deadline := none, nightBound := false,
            talkSide := none, progress := none, fromCamp := false } ∧
          (∀ m, (t.pos p).loopAt m = if m = l then none else (s.pos p).loopAt m) ∧
          t.pos p = { s.pos p with loops := (t.pos p).loops, buffer := (t.pos p).buffer } ∧
          t.arrivalCounter = s.arrivalCounter + 1 ∧
          t.outbound = s.outbound ++ [.divert c.ref st .night] ∧ SameSlotsBut c.ref s t ∧ SameGroups s t ∧
          SamePositionsBut p s t ∧ SameDirectory s t ∧ SameRegisters s t ∧ SameLink s t))

/-- A recall of a call that is on no loop, unless it is diverted at the recall limit, lands RECALLING on the lowest free
loop of its signed-in home position, its recall counted: for REFUSED and GONE at a call ringing away and at a camp ring, for
BUSY at a call ringing away that cannot camp and at a camp ring past its camp time, for the no-answer expiries of both with
their DROP, and for a camp expiry. The console receives one NOTICE tone behind the messages of the changed image (log 7). -/
def Obligations.RecallsLandOnTheHomePosition : Prop :=
  ∀ (s : State) (i : Instr) (n p l st : Nat) (more : List Nat) (c : CallRecord) (ahead : Nat → List Msg)
    (start : Option Nat) (e : Station), Admits s → RecalledBy i n st c ahead start e s → c.home = some p →
    p ∈ positionNumbers → (s.pos p).avail ≠ .signedOut → (s.pos p).freeLoops = l :: more →
    (c.recallCount + 1 ≠ s.recallLimit ∨ (s.group (s.pos p).group).overflow = none ∨ c.divertFailed = true) →
    ∃ t, exec i s = .next t ∧
      t.call c.ref = some { c with
        state := .recalling, loop := some l, progress := none, talkSide := none, fromCamp := false, campStart := start,
        group := (s.pos p).group,
        recallCount := if c.recallCount < s.recallLimit then c.recallCount + 1 else c.recallCount,
        deadline := some ⟨.recallRing, s.timeCount, s.timers.recallRing⟩ } ∧
      (∀ m, (t.pos p).loopAt m = if m = l then some c.ref else (s.pos p).loopAt m) ∧
      t.pos p = { s.pos p with loops := (t.pos p).loops, buffer := (t.pos p).buffer } ∧ t.station st = e ∧
      (∀ x, x ≠ st → t.station x = s.station x) ∧ t.hunts = s.hunts ∧ t.outbound = s.outbound ++ ahead 8 ∧
      (s.moments = [] → Told [.notice] p s t) ∧ SameSlotsBut c.ref s t ∧ SameGroups s t ∧ SamePositionsBut p s t ∧
      t.arrivalCounter = s.arrivalCounter ∧ SameRegisters s t ∧ (SameLink s t ∨ StatusShown s t)

/-- A recall of a call that is on no loop and not flagged divert-failed (which taking onto the talk path cleared, R69), and
that brings its count to the recall limit in a group with an overflow station, is diverted with reason RECALL_LIMIT. One that
is not, and whose home position is signed out or has no free loop, takes the stage-2 requeue: to the tail of the home
position's group in class 1 with a fresh enqueue, or, where that group is in NIGHT with a night station, DIVERTING with
reason NIGHT. The causes are those of RecallsLandOnTheHomePosition. The flag that a pairing is due is the model's own (log
6). -/
def Obligations.RecallsDivertAtTheLimitOrRequeue : Prop :=
  ∀ (s : State) (i : Instr) (n p g o st : Nat) (c : CallRecord) (ahead : Nat → List Msg) (start : Option Nat)
    (e : Station), Admits s → RecalledBy i n st c ahead start e s → c.home = some p → c.divertFailed = false →
    g = (s.pos p).group → o = (s.cls 1).overflow →
    (∀ x, c.recallCount + 1 = s.recallLimit → (s.group g).overflow = some x →
      ∃ t, exec i s = .next t ∧
        t.call c.ref = some { c with
          state := .diverting, group := g, recallCount := s.recallLimit, campStart := start, deadline := none,
          nightBound := false, progress := none, talkSide := none, fromCamp := false } ∧
        t.outbound = s.outbound ++ ahead 9 ++ [.divert c.ref x .recallLimit] ∧ t.station st = e ∧
        (∀ y, y ≠ st → t.station y = s.station y) ∧ t.hunts = s.hunts ∧ t.arrivalCounter = s.arrivalCounter ∧
        SameSlotsBut c.ref s t ∧ SameGroups s t ∧ SamePositions s t ∧ SameRegisters s t ∧
        (SameLink s t ∨ StatusShown s t)) ∧
    ((c.recallCount + 1 ≠ s.recallLimit ∨ (s.group g).overflow = none) →
      ((s.pos p).avail = .signedOut ∨ (s.pos p).freeLoops = []) → s.arrivalCounter < 4294967295 →
      (((s.group g).mode = .day ∨ (s.group g).night = none) →
        ∃ t, exec i s = .next t ∧
          t.call c.ref = some { c with
            state := .queued, queueClass := 1, group := g, enqueueTime := s.timeCount,
            arrivalSeq := s.arrivalCounter + 1, bypass := 0, warning := false,
            recallCount := if c.recallCount < s.recallLimit then c.recallCount + 1 else c.recallCount,
            campStart := start, progress := none, talkSide := none, fromCamp := false,
            deadline := if o = 0 then none else some ⟨.queue, s.timeCount, o⟩ } ∧
          (t.group g).queue = (s.group g).queue ++ [c.ref] ∧
          ((s.group g).offerMode = .offer → (t.group g).pairingDue = true) ∧
          t.outbound = s.outbound ++ ahead 1 ∧ t.station st = e ∧ (∀ y, y ≠ st → t.station y = s.station y) ∧
          t.hunts = s.hunts ∧ t.arrivalCounter = s.arrivalCounter + 1 ∧ SameSlotsBut c.ref s t ∧
          (∀ x, x ≠ g → SameGroup x s t) ∧ SamePositions s t ∧ SameRegisters s t ∧
          (SameLink s t ∨ StatusShown s t)) ∧
      (∀ x, (s.group g).mode = .night → (s.group g).night = some x →
        ∃ t, exec i s = .next t ∧
          t.call c.ref = some { c with
            state := .diverting, queueClass := 1, group := g, enqueueTime := s.timeCount,
            arrivalSeq := s.arrivalCounter + 1, bypass := 0, warning := false,
            recallCount := if c.recallCount < s.recallLimit then c.recallCount + 1 else c.recallCount,
            campStart := start, deadline := none, nightBound := false, progress := none, talkSide := none,
            fromCamp := false } ∧
          t.outbound = s.outbound ++ ahead 9 ++ [.divert c.ref x .night] ∧ t.station st = e ∧
          (∀ y, y ≠ st → t.station y = s.station y) ∧ t.hunts = s.hunts ∧ t.arrivalCounter = s.arrivalCounter + 1 ∧
          SameSlotsBut c.ref s t ∧ SameGroups s t ∧ SamePositions s t ∧ SameRegisters s t ∧
          (SameLink s t ∨ StatusShown s t)))

/-- A fresh enqueue that finds the arrival sequence counter at its largest value renumbers first: every other live record
gets as its sequence one more than the number of those records with a lower one, and the enqueued call one more than their
number; so the order of the sequences is kept, the enqueued call comes last, and no other field of those records changes.
Stated of the fresh enqueue of a PRESENT and of that of a RECALL_RING expiry, in day and night. -/
def Obligations.RenumberingKeepsTheOrder : Prop :=
  ∀ (s : State) (i : Instr) (n : Nat), RecordsNamed s → 4294967295 ≤ s.arrivalCounter → n < 256 →
    ((∃ kind number cls grp tag, i = .present kind number cls grp tag ∧ LinkTakes s ∧
        presentValuesOk kind number cls grp tag = true ∧
        (∀ k, readOriginKind kind = some k → ∀ m < 256, ∀ c ∈ (s.slot m).call,
          ¬(c.originKind = k ∧ c.originNum = number)) ∧
        (s.slot n).call = none ∧ ∀ m < n, (s.slot m).call ≠ none) ∨
      (∃ c, i = .recallRingExpiry n ∧ Admits s ∧ Due n .recallRing c s ∧ c.state = .recalling)) →
    ∃ t d, exec i s = .next t ∧ (t.slot n).call = some d ∧ d.enqueueTime = s.timeCount ∧
      d.arrivalSeq = t.arrivalCounter ∧
      t.arrivalCounter = ((List.range 256).filter (fun m => decide (m ≠ n) && (s.slot m).call.isSome)).length + 1 ∧
      ∀ m c, m ≠ n → (s.slot m).call = some c → ∃ rank,
        (t.slot m).call = some { c with arrivalSeq := rank } ∧ 1 ≤ rank ∧ rank < t.arrivalCounter ∧
        rank = ((List.range 256).filter (fun k => decide (k ≠ n) &&
          (s.slot k).call.any (fun x => decide (x.arrivalSeq < c.arrivalSeq)))).length + 1 ∧
        ∀ k x y, k ≠ n → (s.slot k).call = some x → (t.slot k).call = some y →
          (x.arrivalSeq < c.arrivalSeq ↔ y.arrivalSeq < rank)

/-- A selection takes the forced call, which is the one of lowest arrival sequence among those at the bypass limit, and
without one the call of highest score, the lowest arrival sequence among equals; it chooses a call whenever one is
selectable. -/
def Obligations.SelectionIsForcedThenByScore : Prop :=
  ∀ (s : State) (g : Nat) (value : CallRecord → Nat),
    (∀ c, value c = min 4095 ((s.cls c.queueClass).base +
      min 65535 (s.timeCount - c.enqueueTime) * (s.cls c.queueClass).weight / 2 ^ s.ageShift)) →
    (selectableCalls g s = [] → selectCall g s = none) ∧
    (selectableCalls g s ≠ [] → ∃ c, selectCall g s = some c ∧ c ∈ selectableCalls g s ∧
      (1 ≤ s.bypassLimit → (∃ d ∈ selectableCalls g s, d.bypass = s.bypassLimit) →
        c.bypass = s.bypassLimit ∧
        ∀ d ∈ selectableCalls g s, d.bypass = s.bypassLimit → c.arrivalSeq ≤ d.arrivalSeq) ∧
      ((s.bypassLimit = 0 ∨ ∀ d ∈ selectableCalls g s, d.bypass ≠ s.bypassLimit) →
        ∀ d ∈ selectableCalls g s, value d ≤ value c ∧ (value d = value c → c.arrivalSeq ≤ d.arrivalSeq)))

/-- A pairing in an OFFER group offers the call that the selection chooses to the offerable position that has been idle
longest, the lower number where two have been idle equally long: with one offerable position or one selectable call that is
the whole pairing, in which the call leaves the queue with an offer deadline and each selectable call ahead of it has its
bypass count raised, up to the limit. A pairing goes on until no call is selectable or no position offerable: the offers go
to the positions idle longest, each a different call of the queue, and every other call keeps its place. Each console that is
offered a call receives one NOTICE tone behind the messages of the changed image (log 7). Where no call
is selectable or no position offerable, nothing is offered. A group with no pairing due is left alone. That a pairing is an
event of its own, kept due by a flag, is the model's choice (log 2, log 6), as is which transaction has begun before
it (log 4). -/
def Obligations.PairingOffersTheSelectedCall : Prop :=
  ∀ (s : State) (g : Nat), s.phase ≠ .inReset → (s.group g).offerMode = .offer →
    (∀ p c, (s.group g).pairingDue = true → p ∈ positionNumbers → offerable g p s = true →
      (∀ q ∈ positionNumbers, q ≠ p → offerable g q s = true →
        (s.pos p).idleSince < (s.pos q).idleSince ∨ ((s.pos p).idleSince = (s.pos q).idleSince ∧ p < q)) →
      selectCall g s = some c → s.call c.ref = some c →
      ((∀ q ∈ positionNumbers, q ≠ p → offerable g q s = false) ∨
        (selectableCalls g s = [c] ∧ c.ref ∈ (s.group g).queue)) →
      ∃ t, exec (.pairing g) s = .next t ∧
        t.pos p = { s.pos p with offer := some c.ref, buffer := (t.pos p).buffer } ∧
        t.call c.ref = some { c with
          state := .offered, deadline := some ⟨.offer, s.timeCount, s.timers.offer⟩ } ∧
        t.group g = { s.group g with
          queue := (s.group g).queue.filter (fun x => x ≠ c.ref), pairingDue := false } ∧
        (s.moments = [] → Told [.notice] p s t) ∧ BypassRaised g c [] s t ∧ t.outbound = s.outbound ∧
        (∀ x, x ≠ g → SameGroup x s t) ∧ SamePositionsBut p s t ∧ SameDirectory s t ∧ t.arrivalCounter = s.arrivalCounter ∧ SameRegisters s t ∧ SameLink s t) ∧
    ((s.group g).pairingDue = true → RecordsNamed s →
      ∃ t, exec (.pairing g) s = .next t ∧
        (selectableCalls g t = [] ∨ ∀ p ∈ positionNumbers, offerable g p t = false) ∧
        (∀ p, t.pos p = { s.pos p with offer := (t.pos p).offer, buffer := (t.pos p).buffer }) ∧
        (s.moments = [] → ∀ p ∈ positionNumbers,
          Told (if (t.pos p).offer = (s.pos p).offer then [] else [.notice]) p s t) ∧
        (∀ p r, (t.pos p).offer = some r → (s.pos p).offer = some r ∨
          (p ∈ positionNumbers ∧ offerable g p s = true ∧ (∃ c ∈ selectableCalls g s, c.ref = r) ∧
            (∃ d, t.call r = some d ∧ d.ref = r ∧ d.state = .offered ∧
              d.deadline = some ⟨.offer, s.timeCount, s.timers.offer⟩) ∧
            ∀ q ∈ positionNumbers, q ≠ p → offerable g q s = true → (t.pos q).offer ≠ some r)) ∧
        (∀ p ∈ positionNumbers, ∀ q ∈ positionNumbers, offerable g p s = true → offerable g q s = true →
          ((s.pos q).idleSince < (s.pos p).idleSince ∨ ((s.pos q).idleSince = (s.pos p).idleSince ∧ q < p)) →
          (t.pos p).offer ≠ none → (t.pos q).offer ≠ none) ∧
        (∀ p ∈ positionNumbers, ∀ c, offerable g p s = true →
          (∀ q ∈ positionNumbers, q ≠ p → offerable g q s = true →
            (s.pos p).idleSince < (s.pos q).idleSince ∨ ((s.pos p).idleSince = (s.pos q).idleSince ∧ p < q)) →
          selectCall g s = some c → (t.pos p).offer = some c.ref) ∧
        (t.group g).pairingDue = false ∧
        (t.group g).queue = (s.group g).queue.filter (fun r =>
          decide (∀ p ∈ positionNumbers, offerable g p s = true → (t.pos p).offer ≠ some r)) ∧
        (∀ n c, (s.slot n).call = some c →
          (∀ p ∈ positionNumbers, offerable g p s = true → (t.pos p).offer ≠ some c.ref) →
          ∃ b, (t.slot n).call = some { c with bypass := b } ∧ c.bypass ≤ b ∧ b ≤ max c.bypass s.bypassLimit) ∧
        t.outbound = s.outbound ∧ (∀ x, x ≠ g → SameGroup x s t) ∧ SameDirectory s t ∧
        t.arrivalCounter = s.arrivalCounter ∧ SameRegisters s t ∧ SameLink s t) ∧
    ((s.group g).pairingDue = true →
      (selectableCalls g s = [] ∨ ∀ p ∈ positionNumbers, offerable g p s = false) →
      ∃ t, exec (.pairing g) s = .next t ∧ t.group g = { s.group g with pairingDue := false } ∧
        (∀ n, t.slot n = s.slot n) ∧ t.outbound = s.outbound ∧ SamePositions s t ∧ SameDirectory s t ∧
        SameRegisters s t ∧ SameLink s t) ∧
    ((s.group g).pairingDue = false → exec (.pairing g) s = .next s.begun)

/-- A sweep step that is due diverts the night-bound call of lowest arrival sequence with reason NIGHT; the next step is due
one sweep interval from now while another is night-bound, else the sweep is IDLE. Without a night station every mark of the
queue is cleared, the sweep is IDLE and, in an OFFER group, a pairing follows; the flag that says one is due, set in a NIGHT
group too, is the model's own (log 6). -/
def Obligations.SweepStepDivertsTheOldest : Prop :=
  ∀ (s : State) (g due : Nat), Admits s → (s.group g).sweep = .active due → due ≤ s.timeCount →
    (∀ st c, (s.group g).night = some st → s.call c.ref = some c → c.ref ∈ (s.group g).queue → c.nightBound = true →
      (∀ r ∈ (s.group g).queue, r ≠ c.ref → ∀ d, s.call r = some d → d.nightBound = true →
        c.arrivalSeq < d.arrivalSeq) →
      ∃ t, exec (.sweepStep g) s = .next t ∧
        t.call c.ref = some { c with
          state := .diverting, deadline := none, nightBound := false, loop := none, talkSide := none, progress := none,
          fromCamp := false } ∧
        (t.group g).queue = (s.group g).queue.filter (fun x => x ≠ c.ref) ∧
        ((∃ r ∈ (s.group g).queue, r ≠ c.ref ∧ ∃ d, s.call r = some d ∧ d.nightBound = true) →
          (t.group g).sweep = .active (s.timeCount + s.timers.sweep)) ∧
        ((∀ r ∈ (s.group g).queue, r ≠ c.ref → ∀ d, s.call r = some d → d.nightBound = false) →
          (t.group g).sweep = .idle) ∧
        t.outbound = s.outbound ++ [.divert c.ref st .night] ∧ SameSlotsBut c.ref s t ∧
        (∀ x, x ≠ g → SameGroup x s t) ∧ SamePositions s t ∧ SameDirectory s t ∧ SameRegisters s t ∧
        SameLink s t) ∧
    ((s.group g).night = none → ∃ t, exec (.sweepStep g) s = .next t ∧ (t.group g).sweep = .idle ∧
      (∀ n, t.slot n = { s.slot n with call := (s.slot n).call.map (fun d =>
        if d.ref ∈ (s.group g).queue then { d with nightBound := false } else d) }) ∧
      ((s.group g).offerMode = .offer → (t.group g).pairingDue = true) ∧
      (t.group g).queue = (s.group g).queue ∧ t.outbound = s.outbound ∧ (∀ x, x ≠ g → SameGroup x s t) ∧
      SamePositions s t ∧ SameDirectory s t ∧ SameRegisters s t ∧ SameLink s t)

/-- A release step takes its entry off the release list. An empty loop: nothing more. A HELD, TALKING or EXTENDING call takes
the requeue in class 1 with a recall counted, behind a DROP where a leg exists and a HOLD for the talk call; a RECALLING call
the same with none counted. Where the recall brings the count to the limit and the group has an overflow station, the call is
diverted instead with reason RECALL_LIMIT, and in a NIGHT group with a night station with reason NIGHT. A blind extend in
progress is released blind. The flag that a pairing is due is the model's own (log 6). -/
def Obligations.ReleaseStepMovesTheCall : Prop :=
  ∀ (s : State) (p l g o : Nat) (rest : List Nat), Admits s → p ∈ positionNumbers →
    (s.pos p).releaseList = l :: rest → (s.pos p).avail = .signedOut → g = (s.pos p).group → o = (s.cls 1).overflow →
    ((s.pos p).loopAt l = none → ∃ t, exec (.releaseStep p) s = .next t ∧
      t.pos p = { s.pos p with releaseList := rest, buffer := (t.pos p).buffer } ∧ t.outbound = s.outbound ∧
      (∀ n, t.slot n = s.slot n) ∧ SameGroups s t ∧ SamePositionsBut p s t ∧ SameDirectory s t ∧ SameRegisters s t ∧
      SameLink s t) ∧
    (∀ (c : CallRecord) (orders : List Msg) (counted : Bool),
      (s.pos p).loopAt l = some c.ref → s.call c.ref = some c → c.home = some p → c.loop = some l →
      c.divertFailed = false → LeavesByRelease c orders counted l (s.pos p) →
      (∀ st, counted = true → c.recallCount + 1 = s.recallLimit → (s.group g).overflow = some st →
        ∃ t, exec (.releaseStep p) s = .next t ∧ ReleasedFrom p l rest c s t ∧
          t.call c.ref = some { c with
            state := .diverting, group := g, loop := none, recallCount := s.recallLimit, deadline := none,
            nightBound := false, progress := none, talkSide := none, fromCamp := false } ∧
          t.outbound = s.outbound ++ orders ++ [.divert c.ref st .recallLimit] ∧
          t.arrivalCounter = s.arrivalCounter ∧ SameGroups s t) ∧
      (∀ st, (counted = false ∨ c.recallCount + 1 ≠ s.recallLimit ∨ (s.group g).overflow = none) →
        s.arrivalCounter < 4294967295 → (s.group g).mode = .night → (s.group g).night = some st →
        ∃ t, exec (.releaseStep p) s = .next t ∧ ReleasedFrom p l rest c s t ∧
          t.call c.ref = some { c with
            state := .diverting, queueClass := 1, group := g, loop := none, enqueueTime := s.timeCount,
            arrivalSeq := s.arrivalCounter + 1, bypass := 0, warning := false,
            recallCount := if counted = true ∧ c.recallCount < s.recallLimit then c.recallCount + 1 else c.recallCount,
            deadline := none, nightBound := false, progress := none, talkSide := none, fromCamp := false } ∧
          t.outbound = s.outbound ++ orders ++ [.divert c.ref st .night] ∧
          t.arrivalCounter = s.arrivalCounter + 1 ∧ SameGroups s t) ∧
      ((counted = false ∨ c.recallCount + 1 ≠ s.recallLimit ∨ (s.group g).overflow = none) →
        s.arrivalCounter < 4294967295 → ((s.group g).mode = .day ∨ (s.group g).night = none) →
        ∃ t, exec (.releaseStep p) s = .next t ∧ ReleasedFrom p l rest c s t ∧
          t.call c.ref = some { c with
            state := .queued, queueClass := 1, group := g, loop := none, enqueueTime := s.timeCount,
            arrivalSeq := s.arrivalCounter + 1, bypass := 0, warning := false,
            recallCount := if counted = true ∧ c.recallCount < s.recallLimit then c.recallCount + 1 else c.recallCount,
            progress := if counted then none else c.progress, talkSide := if counted then none else c.talkSide,
            fromCamp := if counted then false else c.fromCamp,
            deadline := if o = 0 then none else some ⟨.queue, s.timeCount, o⟩ } ∧
          t.outbound = s.outbound ++ orders ∧ t.arrivalCounter = s.arrivalCounter + 1 ∧
          (t.group g).queue = (s.group g).queue ++ [c.ref] ∧
          ((s.group g).offerMode = .offer → (t.group g).pairingDue = true) ∧ ∀ x, x ≠ g → SameGroup x s t)) ∧
    (∀ c : CallRecord, OnTalkPath p l c s → c.state = .extending → c.mode = .blind →
      (c.progress = some .pending ∨ c.progress = some .ringing) →
      ∃ t, exec (.releaseStep p) s = .next t ∧
        t.call c.ref = some { c with state := .ringingAway, loop := none, talkSide := none } ∧
        (∀ m, (t.pos p).loopAt m = if m = l then none else (s.pos p).loopAt m) ∧
        t.pos p = { s.pos p with
          releaseList := rest, loops := (t.pos p).loops, talkLoop := none, dialled := none, idleSince := s.timeCount,
          buffer := (t.pos p).buffer } ∧
        t.outbound = s.outbound ∧
        SameSlotsBut c.ref s t ∧ SameGroups s t ∧ SamePositionsBut p s t ∧ SameDirectory s t ∧ SameRegisters s t ∧
        SameLink s t)

/-! ## Console bus -/

/-- A poll cycle begins with every enabled position, in increasing number. A poll carries no message where the buffer is
empty, repeats a head message in flight under the same out sequence, and sends a new head message under a toggled one; its
frame carries the position, the four control bits and the item, and its bytes cancel under exclusive OR. The positions still
to be polled and the exchange in progress are the model's form of the poll cycle (log 13); the panel bytes of a blank call
panel and bits 7 to 4 of the control byte are free values, drawn anew for every poll, so that a repeat may carry others than
the first sending (log 8, log 25); which transaction has begun before a poll is the model's form (log 4). -/
def Obligations.PollsCarryTheHeadMessage : Prop :=
  (∀ s : State, s.phase = .running → s.toPoll = [] → s.exchange = none →
    exec .pollCycle s = .next { s.begun with toPoll := positionNumbers.filter (fun p => (s.pos p).enabled) }) ∧
  (∀ (s : State) (p : Nat) (rest : List Nat) (out infl hold : Bool) (items : List Byte), s.phase = .running →
    s.exchange = none → s.toPoll = p :: rest →
    hold = (decide (112 < s.outbound.length) || !(s.pos p).intake.isEmpty) →
    (((s.pos p).buffer = [] ∧ out = (s.pos p).outSeq ∧ infl = (s.pos p).inFlight ∧ items = []) ∨
      (∃ m more, (s.pos p).buffer = m :: more ∧ items = m.item s.freeDraws ∧ infl = true ∧
        out = if (s.pos p).inFlight then (s.pos p).outSeq else !(s.pos p).outSeq)) →
    ∃ t, exec (.poll p) s = .next t ∧ t.pos p = { s.pos p with outSeq := out, inFlight := infl } ∧
      t.exchange = some ⟨p, !(s.pos p).buffer.isEmpty, (s.pos p).sync, hold⟩ ∧ t.toPoll = rest ∧
      (∃ control check, t.bus = BitVec.ofNat 8 p :: control :: BitVec.ofNat 8 items.length :: items ++ [check] ∧
        control.toNat % 16 =
          out.toNat + 2 * (s.pos p).lastIn.toNat + 4 * hold.toNat + 8 * (s.pos p).sync.toNat) ∧
      t.bus.foldl (fun x y => x ^^^ y) 0 = 0 ∧ (∀ q, q ≠ p → t.pos q = s.pos q) ∧ t.outbound = s.outbound ∧
      (∀ n, t.slot n = s.slot n) ∧ (∀ g, t.group g = s.group g) ∧ SameDirectory s t ∧
      SameRegisters { s with toPoll := rest, exchange := t.exchange, bus := t.bus, freeDraws := s.freeDraws + 1 } t ∧
      SameLink s t)

/-- A reply that counts at a present console clears the missed count, confirms the message and the SYNC of its poll, and has
its events appended to the intake list unless the poll carried HOLD-KEYS or the batch repeats the last one. At an absent
console it restores presence, drops its events and starts a full refresh. A missed poll below the third raises the missed
count, and at an absent console leaves it at 3. Which row a reply is, by presence, is the model's reading (log 14). -/
def Obligations.RepliesAndMissedPolls : Prop :=
  ∀ (s : State) (p : Nat) (inSeq : Bool) (events : List ConEvent) (x : Exchange), s.phase = .running →
    s.exchange = some x → x.pos = p → p ∈ positionNumbers →
    ((s.pos p).present = true →
      ∃ t, exec (.countedReply p inSeq events) s = .next t ∧ t.exchange = none ∧
        t.pos p = { s.pos p with
          missed := 0, buffer := if x.message then (s.pos p).buffer.drop 1 else (s.pos p).buffer,
          inFlight := if x.message then false else (s.pos p).inFlight,
          sync := if x.sync then false else (s.pos p).sync,
          intake := if x.holdKeys = true ∨ inSeq = (s.pos p).lastIn then (s.pos p).intake
            else (s.pos p).intake ++ events,
          lastIn := if x.holdKeys then (s.pos p).lastIn else inSeq } ∧
        (∀ q, q ≠ p → t.pos q = s.pos q) ∧ t.outbound = s.outbound ∧ (∀ n, t.slot n = s.slot n) ∧
        (∀ g, t.group g = s.group g) ∧ SameDirectory s t ∧ SameRegisters { s with exchange := none } t ∧ SameLink s t) ∧
    ((s.pos p).present = false →
      ∃ t, exec (.presenceRestore p inSeq events) s = .next t ∧ t.exchange = none ∧
        t.pos p = { s.pos p with
          missed := 0, present := true, lastIn := inSeq,
          buffer := (if (s.pos p).inFlight then (s.pos p).buffer.take 1 else []) ++ wholeImage p s } ∧
        (∀ q, q ≠ p → t.pos q = s.pos q) ∧ t.outbound = s.outbound ∧ (∀ n, t.slot n = s.slot n) ∧
        (∀ g, t.group g = s.group g) ∧ SameDirectory s t ∧ SameRegisters { s with exchange := none } t ∧ SameLink s t) ∧
    (((s.pos p).present = true ∧ (s.pos p).missed < 2) ∨ (s.pos p).present = false →
      ∃ t, exec (.missedPoll p) s = .next t ∧ t.exchange = none ∧
        t.pos p = { s.pos p with
          missed := if (s.pos p).present then (s.pos p).missed + 1 else 3, buffer := (t.pos p).buffer } ∧
        SamePositionsBut p s t ∧ t.outbound = s.outbound ∧ (∀ n, t.slot n = s.slot n) ∧ SameGroups s t ∧
        SameDirectory s t ∧ SameRegisters { s with exchange := none } t ∧ SameLink s t)

/-- The leaving event, by SIGN_OUT with an empty talk path or by the third missed poll of a signed-in position: the position
is SIGNED_OUT with its dialled station and notice cleared and its release list formed, the talk loop first; the calls stay
on their loops, and nothing goes outbound. A pending offer is withdrawn, after the availability lamp shows OUT: the OFFER
lamp goes dark behind it (R204, log 7), and its call returns to its ordered place in the queue. Where no other position of
the group is signed in, the group enters NIGHT, and with a night station its queued calls, the withdrawn one among them, but
the divert-failed ones not, are marked and the sweep starts. A console lost also loses its link state and intake list; at a
position already SIGNED_OUT it loses these alone. -/
def Obligations.LeavingEventsSignThePositionOut : Prop :=
  (
    ∀ (s : State) (i : Instr) (p g : Nat) (q : Position), p ∈ positionNumbers → (s.pos p).avail ≠ .signedOut →
      (s.pos p).offer = none → g = (s.pos p).group →
      ((i = .signOut p ∧ Admits s ∧ (∃ arg, headEvent p s = some (.key 15 arg)) ∧ (s.pos p).talkLoop = none ∧
          q = { s.pos p with intake := (s.pos p).intake.tail }) ∨
        (i = .missedPoll p ∧ s.phase = .running ∧ (∃ x, s.exchange = some x ∧ x.pos = p) ∧
          (s.pos p).present = true ∧ 2 ≤ (s.pos p).missed ∧
          q = { s.pos p with
            missed := 3, present := false, inFlight := false, sync := true, intake := [] })) →
      ∃ t, exec i s = .next t ∧
        t.pos p = { q with
          avail := .signedOut, dialled := none, notice := none, buffer := (t.pos p).buffer,
          releaseList := match (s.pos p).talkLoop with
            | none => loopNumbers.filter (fun l => ((s.pos p).loopAt l).isSome)
            | some k => k :: loopNumbers.filter (fun l => ((s.pos p).loopAt l).isSome && decide (l ≠ k)) } ∧
        (i = .missedPoll p → (t.pos p).buffer = [] ∧ t.exchange = none) ∧ t.outbound = s.outbound ∧
        ((∃ o ∈ positionNumbers, o ≠ p ∧ (s.pos o).enabled = true ∧ (s.pos o).group = g ∧ (s.pos o).avail ≠ .signedOut) →
          (∀ n, t.slot n = s.slot n) ∧ SameGroups s t) ∧
        ((∀ o ∈ positionNumbers, o ≠ p → (s.pos o).enabled = true → (s.pos o).group = g → (s.pos o).avail = .signedOut) →
          (t.group g).mode = .night ∧
          ((s.group g).night = none → (∀ n, t.slot n = s.slot n) ∧ (t.group g).sweep = (s.group g).sweep) ∧
          ((s.group g).night ≠ none →
            (∀ n, t.slot n = { s.slot n with call := (s.slot n).call.map (fun d =>
              if d.ref ∈ (s.group g).queue ∧ d.divertFailed = false then { d with nightBound := true } else d) }) ∧
            ((s.group g).sweep = .idle → (∃ r ∈ (s.group g).queue, ∃ d, s.call r = some d ∧ d.ref = r ∧
              d.divertFailed = false) → (t.group g).sweep = .active s.timeCount))) ∧
        (t.group g).queue = (s.group g).queue ∧ (∀ o, o ≠ g → SameGroup o s t) ∧ SamePositionsBut p s t ∧
        SameDirectory s t ∧ t.arrivalCounter = s.arrivalCounter ∧
        SameRegisters { s with waiting := t.waiting, exchange := t.exchange } t ∧ SameLink s t) ∧
  (
    ∀ (s : State) (i : Instr) (p g : Nat) (q : Position) (c : CallRecord), p ∈ positionNumbers →
      (s.pos p).avail ≠ .signedOut → (s.pos p).offer = some c.ref → (s.pos p).talkLoop = none → s.call c.ref = some c →
      c.nightBound = false → g = (s.pos p).group → c.group = g →
      ((i = .signOut p ∧ Admits s ∧ (∃ arg, headEvent p s = some (.key 15 arg)) ∧
          q = { s.pos p with intake := (s.pos p).intake.tail }) ∨
        (i = .missedPoll p ∧ s.phase = .running ∧ (∃ x, s.exchange = some x ∧ x.pos = p) ∧
          (s.pos p).present = true ∧ 2 ≤ (s.pos p).missed ∧
          q = { s.pos p with missed := 3, present := false, inFlight := false, sync := true, intake := [] })) →
      ∃ t d, exec i s = .next t ∧
        t.pos p = { q with
          avail := .signedOut, offer := none, dialled := none, notice := none, buffer := (t.pos p).buffer,
          releaseList := loopNumbers.filter (fun l => ((s.pos p).loopAt l).isSome) } ∧
        (i = .signOut p → s.moments = [] → ToldInOrder [] [.availability .signedOut, .lamp 7 .dark] p s t) ∧
        t.outbound = s.outbound ∧ t.call c.ref = some d ∧ d.state = .queued ∧ d.group = g ∧
        d.enqueueTime = c.enqueueTime ∧ d.arrivalSeq = c.arrivalSeq ∧ d.bypass = c.bypass ∧
        d.divertFailed = c.divertFailed ∧
        (∃ ahead behind, (s.group g).queue = ahead ++ behind ∧ (t.group g).queue = ahead ++ c.ref :: behind ∧
          (∀ r ∈ ahead, ∀ x, s.call r = some x → x.arrivalSeq ≤ c.arrivalSeq) ∧
          (∀ r ∈ behind.head?, ∃ x, s.call r = some x ∧ c.arrivalSeq < x.arrivalSeq)) ∧
        ((∃ o ∈ positionNumbers, o ≠ p ∧ (s.pos o).enabled = true ∧ (s.pos o).group = g ∧
            (s.pos o).avail ≠ .signedOut) →
          d.nightBound = false ∧ (t.group g).mode = (s.group g).mode ∧ (t.group g).sweep = (s.group g).sweep ∧
          SameSlotsBut c.ref s t) ∧
        ((∀ o ∈ positionNumbers, o ≠ p → (s.pos o).enabled = true → (s.pos o).group = g →
            (s.pos o).avail = .signedOut) →
          (t.group g).mode = .night ∧
          ((s.group g).night = none →
            d.nightBound = false ∧ (t.group g).sweep = (s.group g).sweep ∧ SameSlotsBut c.ref s t) ∧
          ((s.group g).night ≠ none → d.nightBound = !c.divertFailed ∧
            (c.divertFailed = false → (s.group g).sweep = .idle → (t.group g).sweep = .active s.timeCount) ∧
            ∀ n, n ≠ slotOf c.ref → t.slot n = { s.slot n with call := (s.slot n).call.map (fun d =>
              if (d.ref ∈ (s.group g).queue ∨ d.ref = c.ref) ∧ d.divertFailed = false
                then { d with nightBound := true } else d) })) ∧
        (∀ o, o ≠ g → SameGroup o s t) ∧ SamePositionsBut p s t ∧ SameDirectory s t ∧
        t.arrivalCounter = s.arrivalCounter ∧ SameRegisters { s with waiting := t.waiting, exchange := t.exchange } t ∧
        SameLink s t) ∧
  (
    ∀ (s : State) (p : Nat) (x : Exchange), p ∈ positionNumbers → s.phase = .running → s.exchange = some x →
      x.pos = p → (s.pos p).present = true → 2 ≤ (s.pos p).missed → (s.pos p).avail = .signedOut →
      ∃ t, exec (.missedPoll p) s = .next t ∧
        t.pos p = { s.pos p with
          missed := 3, present := false, buffer := [], inFlight := false, sync := true, intake := [] } ∧
        t.outbound = s.outbound ∧ (∀ n, t.slot n = s.slot n) ∧ SameGroups s t ∧ SamePositionsBut p s t ∧
        SameDirectory s t ∧ t.arrivalCounter = s.arrivalCounter ∧
        SameRegisters { s with waiting := s.waiting.filter (fun w => w ≠ .key p), exchange := none } t ∧ SameLink s t)

/-- The messages of an event are placed at the end of it in the buffer of each present console, in the order in which the
event produced them: one for each lamp whose state changed, the display if it changed, and the tones; then the group's count
and lamp if they changed. The tones keep their order, and a change stands ahead of a moment's tone exactly where it stands
in the image from that moment to the end of the event. Where the messages would pass 16 messages, all but one in flight are
discarded, and the whole image is placed instead. An absent console receives nothing. That the moments of an event stand in
the state until its end is the model's form, and which change of one lamp produces its message its choice, as is the place
of the group's message (log 7). -/
def Obligations.EventMessagesArePlaced : Prop :=
  ∀ (before after : State) (p : Nat), p ∈ positionNumbers → ∃ t, t = endEvent before after ∧
    ((after.pos p).present = false → (t.pos p).buffer = (after.pos p).buffer) ∧
    ((after.pos p).present = true → ∃ news : List ConMsg,
      (∀ m, m ∈ news ↔
        (∃ l ∈ loopNumbers, loopLamp p l t ≠ loopLamp p l before ∧ m = .lamp l (loopLamp p l t)) ∨
        (offerLamp p t ≠ offerLamp p before ∧ m = .lamp 7 (offerLamp p t)) ∨
        ((t.pos p).avail ≠ (before.pos p).avail ∧ m = .availability (t.pos p).avail) ∨
        (displayOf p t ≠ displayOf p before ∧ m = .display (displayOf p t)) ∨
        (∃ k ∈ after.moments, k.pos = p ∧ ∃ x, k.tone = some x ∧ m = .tone x)) ∧
      (∀ earlier k later, after.moments.filter (fun k => k.pos = p) = earlier ++ k :: later →
        ∃ a b, news = a ++ k.tone.toList.map .tone ++ b ∧ a.filterMap ConMsg.toneOf = earlier.filterMap Moment.tone ∧
          b.filterMap ConMsg.toneOf = later.filterMap Moment.tone ∧
          (∀ m ∈ a, m.toneOf = none → ∀ k' ∈ k :: later, m ∈ k'.image) ∧
          ∀ m ∈ b, m.toneOf = none → ∃ k' ∈ k :: later, m ∉ k'.image) ∧
      (news.filter (fun m => m.toneOf = none)).Nodup ∧ Placed (news ++ groupNews p before t) p after t)

/-- Every row that takes at most one event leaves in the output buffer of every position what that event places: the
messages for the lamps that changed, the display if it changed, the tones, and the group's waiting count and lamp if they
changed, between the state before the row and the state after it, or a full refresh where they would pass 16; and nothing
where the console is absent. A row that takes no key produces one NOTICE tone for each call that it recalls to the position
and for a new offer, and no other tone. A KEY or DIAL row produces no tone but at its own position, and there at most one
ERROR tone, which comes only with the notice NO CALL or where the key changed nothing but the intake list, the notice ALL
BUSY set or the notice as it was. Left out are the rows that do more to a buffer, which have their own statements: resets,
refreshes, confirmed messages, a lost console, a tenth, a READ with its admitted events (AdmittedInOrder). The messages
stand in some order, the group's last (log 7). -/
def Obligations.EveryRowPlacesItsMessages : Prop :=
  ∀ (s t : State) (i : Instr) (p : Nat), RecordsNamed s → CallsPlaced s → s.moments = [] →
    (∀ q, (s.pos q).buffer.length ≤ 16) → exec i s = .next t → p ∈ positionNumbers → ¬OwnBuffer i p s t →
    (keyPosition i = none → ToldInOrder (noticesOf p s t) [] p s t) ∧
    (keyPosition i ≠ none → keyPosition i ≠ some p → Told [] p s t) ∧
    (keyPosition i = some p → ToldInOrder [] [] p s t ∨ (ToldInOrder [.error] [] p s t ∧
      ((t.pos p).notice = some .noCall ∨
        (t.pos p = { s.pos p with
            intake := (s.pos p).intake.tail, notice := (t.pos p).notice, buffer := (t.pos p).buffer } ∧
          ((t.pos p).notice = (s.pos p).notice ∨ (t.pos p).notice = some .allBusy) ∧ t.outbound = s.outbound ∧
          ∀ n, t.slot n = s.slot n))))

/-! ## Keys -/

/-- A key that R57 or its own rule refuses is taken from the intake list and changes nothing else: the console receives one
ERROR tone. So is a dialled number above 4095. Refused are every key but SIGN_IN, READY and BREAK at a SIGNED_OUT position,
an availability key in the wrong availability, SIGN_OUT with an occupied talk path, LOOP of no loop, of an empty one or of
another one while an offer is pending, a HUNT of no range, a code of no key, the keys on the talk call with an empty talk
path, ANSWER with neither an offer nor a RECALLING call nor a free loop, ANSWER, LOOP and RELEASE against a screened extend
in progress, HOLD of an extend, an extend key without its station or during an extend that is not BUSY, CANCEL, SWAP and CAMP
of a TALKING call, SWAP of an extend that is not answered, and CAMP where the extend is not BUSY, the station bars camping,
or it or the pool is full. A HUNT whose range is unconfigured, or in which no station is idle without campers, is refused
with the notice ALL BUSY besides, and moves no pointer. That a key row stands for the event at the head of the intake list is
the model's choice (log 15). -/
def Obligations.RefusedKeysDrawOneErrorTone : Prop :=
  (
    ∀ (s : State) (i : Instr) (p arg code st : Nat) (av : Availability), Admits s → p ∈ positionNumbers →
      (s.pos p).avail = av →
      ((av = .signedOut ∧
          ((i = .answer p ∧ headEvent p s = some (.key 1 arg)) ∨ (i = .loop p arg ∧ headEvent p s = some (.key 2 arg)) ∨
            (i = .hold p ∧ headEvent p s = some (.key 3 arg)) ∨ (i = .release p ∧ headEvent p s = some (.key 4 arg)) ∨
            (i = .extend p ∧ headEvent p s = some (.key 5 arg)) ∨
            (i = .extendBlind p ∧ headEvent p s = some (.key 6 arg)) ∨
            (i = .retry p ∧ headEvent p s = some (.key 7 arg)) ∨ (i = .hunt p arg ∧ headEvent p s = some (.key 8 arg)) ∨
            (i = .cancel p ∧ headEvent p s = some (.key 9 arg)) ∨ (i = .swap p ∧ headEvent p s = some (.key 10 arg)) ∨
            (i = .camp p ∧ headEvent p s = some (.key 11 arg)) ∨
            (i = .signOut p ∧ headEvent p s = some (.key 15 arg)) ∨
            (i = .dial p st ∧ headEvent p s = some (.dial st)) ∨
            (i = .signIn p ∧ headEvent p s = some (.key 14 arg) ∧ (s.pos p).releaseList ≠ []))) ∨
        (av ≠ .signedOut ∧ i = .signIn p ∧ headEvent p s = some (.key 14 arg)) ∨
        (av ≠ .ready ∧ i = .breakKey p ∧ headEvent p s = some (.key 13 arg)) ∨
        (av ≠ .onBreak ∧ i = .ready p ∧ headEvent p s = some (.key 12 arg)) ∨
        (i = .loop p arg ∧ headEvent p s = some (.key 2 arg) ∧
          (arg = 0 ∨ 6 < arg ∨ (s.pos p).loopAt arg = none ∨
            ((s.pos p).talkLoop ≠ some arg ∧ (s.pos p).offer ≠ none))) ∨
        (i = .hunt p arg ∧ headEvent p s = some (.key 8 arg) ∧ 15 < arg) ∨
        (i = .unknownKey p code arg ∧ headEvent p s = some (.key code arg) ∧ (code = 0 ∨ 15 < code)) ∨
        (i = .dial p st ∧ headEvent p s = some (.dial st) ∧ 4095 < st) ∨
        (i = .signOut p ∧ headEvent p s = some (.key 15 arg) ∧ (s.pos p).talkLoop ≠ none) ∨
        ((s.pos p).talkLoop = none ∧
          ((i = .hold p ∧ headEvent p s = some (.key 3 arg)) ∨ (i = .extend p ∧ headEvent p s = some (.key 5 arg)) ∨
            (i = .extendBlind p ∧ headEvent p s = some (.key 6 arg)) ∨
            (i = .retry p ∧ headEvent p s = some (.key 7 arg)) ∨ (i = .hunt p arg ∧ headEvent p s = some (.key 8 arg)) ∨
            (i = .cancel p ∧ headEvent p s = some (.key 9 arg)) ∨ (i = .swap p ∧ headEvent p s = some (.key 10 arg)) ∨
            (i = .camp p ∧ headEvent p s = some (.key 11 arg)))) ∨
        (av ≠ .signedOut ∧ i = .answer p ∧ headEvent p s = some (.key 1 arg) ∧ (s.pos p).offer = none ∧
          recallingLoop p s = none ∧ (∀ l ∈ loopNumbers, (s.pos p).loopAt l ≠ none) ∧
          ((s.pos p).talkLoop = none ∨ ∃ l c, OnTalkPath p l c s ∧
            (c.state = .talking ∨ (c.state = .extending ∧ c.progress = some .busy)))) ∨
        (∃ (l : Nat) (c : CallRecord), OnTalkPath p l c s ∧
          ((c.state = .extending ∧ c.mode = .screened ∧ (c.progress = some .pending ∨ c.progress = some .ringing) ∧
              ((i = .answer p ∧ headEvent p s = some (.key 1 arg)) ∨
                (i = .loop p arg ∧ headEvent p s = some (.key 2 arg) ∧ arg ≠ l) ∨
                (i = .release p ∧ headEvent p s = some (.key 4 arg)))) ∨
            (c.state = .extending ∧ i = .hold p ∧ headEvent p s = some (.key 3 arg)) ∨
            (((s.pos p).dialled = none ∨ (c.state = .extending ∧ c.progress ≠ some .busy)) ∧
              ((i = .extend p ∧ headEvent p s = some (.key 5 arg)) ∨
                (i = .extendBlind p ∧ headEvent p s = some (.key 6 arg)))) ∨
            ((c.curDest = none ∨ (c.state = .extending ∧ c.progress ≠ some .busy)) ∧ i = .retry p ∧
              headEvent p s = some (.key 7 arg)) ∨
            (c.state = .extending ∧ c.progress ≠ some .busy ∧ i = .hunt p arg ∧ headEvent p s = some (.key 8 arg)) ∨
            (c.state = .talking ∧ ((i = .cancel p ∧ headEvent p s = some (.key 9 arg)) ∨
              (i = .swap p ∧ headEvent p s = some (.key 10 arg)) ∨ (i = .camp p ∧ headEvent p s = some (.key 11 arg)))) ∨
            (c.state = .extending ∧ c.progress ≠ some .answered ∧ i = .swap p ∧ headEvent p s = some (.key 10 arg)) ∨
            (c.state = .extending ∧ i = .camp p ∧ headEvent p s = some (.key 11 arg) ∧
              (c.progress ≠ some .busy ∨ ∃ x, c.curDest = some x ∧ ((s.station x).campAllowed = false ∨
                3 ≤ (s.station x).occupancy ∨ 64 ≤ poolOccupancy s)))))) →
      ∃ t, exec i s = .next t ∧
        t.pos p = { s.pos p with intake := (s.pos p).intake.tail, buffer := (t.pos p).buffer } ∧
        (s.moments = [] → Told [.error] p s t) ∧
        ((s.pos p).present = true → s.moments = [] → (s.pos p).buffer.length < 16 →
          (t.pos p).buffer = (s.pos p).buffer ++ [.tone .error]) ∧
        t.outbound = s.outbound ∧ (∀ n, t.slot n = s.slot n) ∧ SameGroups s t ∧ SamePositionsBut p s t ∧
        SameDirectory s t ∧ t.arrivalCounter = s.arrivalCounter ∧ SameRegisters s t ∧ SameLink s t) ∧
  (
    ∀ (s : State) (p l h : Nat) (c : CallRecord), Admits s → KeyAtHead p 8 h s → (s.pos p).avail ≠ .signedOut →
      h ≤ 15 → OnTalkPath p l c s → (c.state = .talking ∨ (c.state = .extending ∧ c.progress = some .busy)) →
      (s.huntRange h = none ∨ ∃ r, s.huntRange h = some r ∧
        ((r.dir = .up ∧ r.first ≤ r.last) ∨ (r.dir = .down ∧ r.last ≤ r.first)) ∧
        ∀ st, min r.first r.last ≤ st → st ≤ max r.first r.last →
          (s.station st).state ≠ .idle ∨ (s.station st).campList ≠ [] ∨ (s.station st).ring ≠ none) →
      ∃ t, exec (.hunt p h) s = .next t ∧
        t.pos p = { s.pos p with
          intake := (s.pos p).intake.tail, notice := some .allBusy, buffer := (t.pos p).buffer } ∧
        (s.moments = [] → Told [.error] p s t) ∧
        t.outbound = s.outbound ∧ (∀ n, t.slot n = s.slot n) ∧ SameGroups s t ∧ SamePositionsBut p s t ∧
        SameDirectory s t ∧ t.arrivalCounter = s.arrivalCounter ∧ SameRegisters s t ∧ SameLink s t)

/-- ANSWER on an empty talk path makes the position READY and takes the first that exists: the pending offer in the lowest
empty loop, the RECALLING call of the lowest loop in its own loop, or the call that a selection chooses, in the lowest free
loop. The call is TALKING with an ATTACH order; its LIT lamp, then the display, then the OFFER lamp of an offer that has
ended are told to the console in that order (log 7). A pull that finds nothing selectable draws NO CALL and an ERROR tone.
That a key row stands for the event at the head of the intake list is the model's choice (log 15). -/
def Obligations.AnswerTakesTheNextCall : Prop :=
  ∀ (s : State) (p arg : Nat), Admits s → KeyAtHead p 1 arg s → (s.pos p).avail ≠ .signedOut →
    (s.pos p).talkLoop = none →
    (∀ (c : CallRecord) (l : Nat) (offer : Option Nat) (pull : Bool), s.call c.ref = some c →
      (((s.pos p).offer = some c.ref ∧ (∃ more, (s.pos p).emptyLoops = l :: more) ∧ offer = none ∧ pull = false) ∨
        ((s.pos p).offer = none ∧ recallingLoop p s = some (l, c.ref) ∧ offer = none ∧ pull = false) ∨
        ((s.pos p).offer = none ∧ recallingLoop p s = none ∧ selectCall (s.pos p).group s = some c ∧
          (∃ more, (s.pos p).emptyLoops = l :: more) ∧ offer = none ∧ pull = true)) →
      ∃ t, exec (.answer p) s = .next t ∧
        t.call c.ref = some { c with
          state := .talking, loop := some l, home := some p, talkSide := some .source, deadline := none,
          divertFailed := false, warning := false } ∧
        (∀ m, (t.pos p).loopAt m = if m = l then some c.ref else (s.pos p).loopAt m) ∧
        t.pos p = { (s.pos p).afterKey with
          avail := .ready, offer := offer, loops := (t.pos p).loops, talkLoop := some l, dialled := none,
          buffer := (t.pos p).buffer } ∧
        (s.moments = [] → ToldInOrder []
          ([.lamp l .lit, .display (displayOf p t)] ++ if (s.pos p).offer = none then [] else [.lamp 7 .dark]) p s t) ∧
        t.outbound = s.outbound ++ [.attach c.ref p .source] ∧
        (pull = false → SameSlotsBut c.ref s t ∧ SameGroups s t) ∧
        (pull = true →
          (t.group (s.pos p).group).queue = (s.group (s.pos p).group).queue.filter (fun x => x ≠ c.ref) ∧
          (∀ n, n ≠ slotOf c.ref → t.slot n = { s.slot n with call := (s.slot n).call.map (fun d =>
            if d.ref ∈ (s.group (s.pos p).group).queue ∧ d.state = .queued ∧ d.nightBound = false ∧
                d.arrivalSeq < c.arrivalSeq ∧ d.bypass < s.bypassLimit
              then { d with bypass := d.bypass + 1 } else d) }) ∧
          ∀ g, g ≠ (s.pos p).group → SameGroup g s t) ∧
        SamePositionsBut p s t ∧ SameDirectory s t ∧ t.arrivalCounter = s.arrivalCounter ∧ SameRegisters s t ∧
        SameLink s t) ∧
    ((s.pos p).offer = none → recallingLoop p s = none → (s.pos p).emptyLoops ≠ [] →
      selectableCalls (s.pos p).group s = [] →
      ∃ t, exec (.answer p) s = .next t ∧
        t.pos p = { (s.pos p).afterKey with
          avail := .ready, notice := some .noCall, buffer := (t.pos p).buffer } ∧
        (s.moments = [] → Told [.error] p s t) ∧
        t.outbound = s.outbound ∧ (∀ n, t.slot n = s.slot n) ∧ SameGroups s t ∧ SamePositionsBut p s t ∧
        SameDirectory s t ∧ SameRegisters s t ∧ SameLink s t)

/-- LOOP n takes the HELD or RECALLING call of loop n onto the talk path; on the talk call itself it changes nothing. LOOP
n, and ANSWER before it takes the RECALLING call or the selected one, clear the talk path first: a TALKING call is put on
hold with a HOLD order, an answered extend is bridged and retired, a blind one is released, and a BUSY one is returned to
the source and put on hold. The lamp of the call so cleared is told ahead of the lamp of the call taken, and the display
after both (log 7). An ANSWER that has cleared the talk path and finds nothing selectable leaves it empty, READY and idle
since now, the dialled station cleared, with the notice NO CALL and an ERROR tone; where the position becomes offerable in
an OFFER group, a pairing is due (log 6). That a key row stands for the event at the head of the intake list is the model's
choice (log 15); that the dialled station is cleared also where the talk call is replaced is read from the spec (log 20). -/
def Obligations.LoopTakesTheCallOfTheLoop : Prop :=
  ∀ (s : State) (p n : Nat), Admits s → (s.pos p).avail ≠ .signedOut → 1 ≤ n → n ≤ 6 →
    (KeyAtHead p 2 n s → (s.pos p).talkLoop = some n → (s.pos p).loopAt n ≠ none →
      ∃ t, exec (.loop p n) s = .next t ∧ t.pos p = { (s.pos p).afterKey with buffer := (t.pos p).buffer } ∧
        (s.moments = [] → p ∈ positionNumbers → Told [] p s t) ∧ t.outbound = s.outbound ∧ (∀ m, t.slot m = s.slot m) ∧ SameGroups s t ∧ SamePositionsBut p s t ∧
        SameDirectory s t ∧ SameRegisters s t ∧ SameLink s t) ∧
    (∀ c, KeyAtHead p 2 n s → (s.pos p).talkLoop = none → (s.pos p).offer = none →
      (s.pos p).loopAt n = some c.ref → s.call c.ref = some c →
      ∃ t, exec (.loop p n) s = .next t ∧
        t.call c.ref = some { c with
          state := .talking, loop := some n, home := some p, talkSide := some .source, deadline := none,
          divertFailed := false, warning := false } ∧
        (∀ m, (t.pos p).loopAt m = (s.pos p).loopAt m) ∧
        t.pos p = { (s.pos p).afterKey with
          loops := (t.pos p).loops, talkLoop := some n, dialled := none, buffer := (t.pos p).buffer } ∧
        t.outbound = s.outbound ++ [.attach c.ref p .source] ∧ SameSlotsBut c.ref s t ∧ SameGroups s t ∧
        SamePositionsBut p s t ∧ SameDirectory s t ∧ SameRegisters s t ∧ SameLink s t) ∧
    (∀ (i : Instr) (c d : CallRecord) (l arg : Nat) (after : Option CallRecord) (orders : List Msg) (keeps : Bool)
        (av : Availability),
      ((i = .loop p n ∧ KeyAtHead p 2 n s ∧ (s.pos p).offer = none ∧ av = (s.pos p).avail) ∨
        (i = .answer p ∧ KeyAtHead p 1 arg s ∧ (s.pos p).offer = none ∧ recallingLoop p s = some (n, d.ref) ∧
          av = .ready)) →
      OnTalkPath p l c s → TalkPathCleared c after orders keeps p s → l ≠ n → (s.pos p).loopAt n = some d.ref →
      s.call d.ref = some d → slotOf d.ref ≠ slotOf c.ref →
      ∃ t, exec i s = .next t ∧
        t.slot (slotOf c.ref) = { s.slot (slotOf c.ref) with call := after } ∧
        t.call d.ref = some { d with
          state := .talking, loop := some n, home := some p, talkSide := some .source, deadline := none,
          divertFailed := false, warning := false } ∧
        (∀ m, (t.pos p).loopAt m = if m = l ∧ keeps = false then none else (s.pos p).loopAt m) ∧
        t.pos p = { (s.pos p).afterKey with
          avail := av, loops := (t.pos p).loops, talkLoop := some n, dialled := none, buffer := (t.pos p).buffer } ∧
        (s.moments = [] → l ∈ loopNumbers → loopLamp p n s ≠ .lit →
          ToldInOrder [] [.lamp l (loopLamp p l t), .lamp n .lit, .display (displayOf p t)] p s t) ∧
        t.outbound = s.outbound ++ orders ++ [.attach d.ref p .source] ∧
        (∀ m, m ≠ slotOf c.ref → m ≠ slotOf d.ref → t.slot m = s.slot m) ∧ SameGroups s t ∧
        SamePositionsBut p s t ∧ SameDirectory s t ∧ SameRegisters s t ∧ SameLink s t) ∧
    (∀ (c d : CallRecord) (l arg : Nat) (after : Option CallRecord) (orders : List Msg) (keeps : Bool),
      KeyAtHead p 1 arg s → (s.pos p).offer = none → recallingLoop p s = none →
      selectCall (s.pos p).group s = some d → s.call d.ref = some d → slotOf d.ref ≠ slotOf c.ref →
      OnTalkPath p l c s → TalkPathCleared c after orders keeps p s → l ∈ loopNumbers →
      (∀ m ∈ loopNumbers, ((s.pos p).loopAt m = none ∨ (m = l ∧ keeps = false)) → n ≤ m) →
      ((s.pos p).loopAt n = none ∨ (n = l ∧ keeps = false)) →
      ∃ t, exec (.answer p) s = .next t ∧
        t.slot (slotOf c.ref) = { s.slot (slotOf c.ref) with call := after } ∧
        t.call d.ref = some { d with
          state := .talking, loop := some n, home := some p, talkSide := some .source, deadline := none,
          divertFailed := false, warning := false } ∧
        (∀ m, (t.pos p).loopAt m = if m = n then some d.ref else if m = l ∧ keeps = false then none
          else (s.pos p).loopAt m) ∧
        t.pos p = { (s.pos p).afterKey with
          avail := .ready, loops := (t.pos p).loops, talkLoop := some n, dialled := none, buffer := (t.pos p).buffer } ∧
        (s.moments = [] → l ≠ n →
          ToldInOrder [] [.lamp l (loopLamp p l t), .lamp n .lit, .display (displayOf p t)] p s t) ∧
        t.outbound = s.outbound ++ orders ++ [.attach d.ref p .source] ∧
        (t.group (s.pos p).group).queue = (s.group (s.pos p).group).queue.filter (fun x => x ≠ d.ref) ∧
        BypassRaised (s.pos p).group d [slotOf c.ref] s t ∧ (∀ g, g ≠ (s.pos p).group → SameGroup g s t) ∧
        SamePositionsBut p s t ∧ SameDirectory s t ∧ SameRegisters s t ∧ SameLink s t) ∧
    (∀ (c : CallRecord) (l arg : Nat) (after : Option CallRecord) (orders : List Msg) (keeps : Bool),
      KeyAtHead p 1 arg s → (s.pos p).offer = none → recallingLoop p s = none →
      selectableCalls (s.pos p).group s = [] → OnTalkPath p l c s → TalkPathCleared c after orders keeps p s →
      l ∈ loopNumbers → (keeps = false ∨ (s.pos p).emptyLoops ≠ []) →
      ∃ t, exec (.answer p) s = .next t ∧
        t.slot (slotOf c.ref) = { s.slot (slotOf c.ref) with call := after } ∧
        (∀ m, (t.pos p).loopAt m = if m = l ∧ keeps = false then none else (s.pos p).loopAt m) ∧
        t.pos p = { (s.pos p).afterKey with
          avail := .ready, loops := (t.pos p).loops, talkLoop := none, dialled := none, idleSince := s.timeCount,
          notice := some .noCall, buffer := (t.pos p).buffer } ∧
        t.outbound = s.outbound ++ orders ∧
        (s.moments = [] → ToldInOrder [.error] [.lamp l (loopLamp p l t), .tone .error] p s t) ∧ PairingFollows p s t ∧
        (∀ m, m ≠ slotOf c.ref → t.slot m = s.slot m) ∧ SameGroups s t ∧ SamePositionsBut p s t ∧ SameDirectory s t ∧
        t.arrivalCounter = s.arrivalCounter ∧ SameRegisters s t ∧ SameLink s t)

/-- HOLD puts the TALKING talk call on hold; RELEASE disconnects and retires it, bridges and retires an answered extend,
releases a blind one in progress, and has no effect on an empty talk path. In these the talk path empties, with the
idle-since time at the present time and the dialled station cleared, and where the position becomes offerable in an OFFER
group, a pairing is due; the flag that says so is the model's own (log 6). RELEASE of a BUSY extend returns it to the source.
DIAL keeps the number as the dialled station, also while the reserve is short. That a key row stands for the event at the
head of the intake list is the model's choice (log 15). -/
def Obligations.HoldReleaseAndDial : Prop :=
  ∀ (s : State) (p l arg : Nat) (c : CallRecord), s.phase ≠ .inReset → p ∈ positionNumbers →
    (s.pos p).avail ≠ .signedOut →
    (s.reserveFree = true → KeyAtHead p 3 arg s → OnTalkPath p l c s → c.state = .talking →
      ∃ t, exec (.hold p) s = .next t ∧
        t.call c.ref = some { c with
          state := .held, talkSide := none, deadline := some ⟨.hold, s.timeCount, s.timers.hold⟩ } ∧
        t.pos p = { (s.pos p).afterKey with
          talkLoop := none, dialled := none, idleSince := s.timeCount, buffer := (t.pos p).buffer } ∧
        PairingFollows p s t ∧ t.outbound = s.outbound ++ [.hold c.ref] ∧ SameSlotsBut c.ref s t ∧ SameGroups s t ∧ SamePositionsBut p s t ∧
        SameDirectory s t ∧ SameRegisters s t ∧ SameLink s t) ∧
    (∀ (order : List Msg) (d : Option CallRecord), s.reserveFree = true → KeyAtHead p 4 arg s → OnTalkPath p l c s →
      ((c.state = .talking ∧ order = [.disconnect c.ref] ∧ d = none) ∨
        (c.state = .extending ∧ c.progress = some .answered ∧ order = [.bridge c.ref] ∧ d = none) ∨
        (c.state = .extending ∧ (c.progress = some .pending ∨ c.progress = some .ringing) ∧ c.mode = .blind ∧ order = [] ∧
          d = some { c with state := .ringingAway, loop := none, talkSide := none })) →
      ∃ t, exec (.release p) s = .next t ∧
        t.slot (slotOf c.ref) = { s.slot (slotOf c.ref) with call := d } ∧
        (∀ m, (t.pos p).loopAt m = if m = l then none else (s.pos p).loopAt m) ∧
        t.pos p = { (s.pos p).afterKey with
          loops := (t.pos p).loops, talkLoop := none, dialled := none, idleSince := s.timeCount,
          buffer := (t.pos p).buffer } ∧
        PairingFollows p s t ∧ t.outbound = s.outbound ++ order ∧ SameSlotsBut c.ref s t ∧ SameGroups s t ∧
        SamePositionsBut p s t ∧ SameDirectory s t ∧ SameRegisters s t ∧ SameLink s t) ∧
    (s.reserveFree = true → KeyAtHead p 4 arg s → OnTalkPath p l c s → c.state = .extending → c.progress = some .busy →
      ∃ t, exec (.release p) s = .next t ∧
        t.call c.ref = some { c with
          state := .talking, talkSide := some .source, progress := none, deadline := none } ∧
        t.pos p = { (s.pos p).afterKey with buffer := (t.pos p).buffer } ∧
        t.outbound = s.outbound ++ (if c.talkSide = some .dest then [.attach c.ref p .source] else []) ∧
        SameSlotsBut c.ref s t ∧ SameGroups s t ∧ SamePositionsBut p s t ∧ SameDirectory s t ∧ SameRegisters s t ∧
        SameLink s t) ∧
    (s.reserveFree = true → KeyAtHead p 4 arg s → (s.pos p).talkLoop = none →
      ∃ t, exec (.release p) s = .next t ∧ t.pos p = { (s.pos p).afterKey with buffer := (t.pos p).buffer } ∧
        (s.moments = [] → Told [] p s t) ∧ t.outbound = s.outbound ∧ (∀ m, t.slot m = s.slot m) ∧ SameGroups s t ∧ SamePositionsBut p s t ∧
        SameDirectory s t ∧ SameRegisters s t ∧ SameLink s t) ∧
    (∀ st, headEvent p s = some (.dial st) → st ≤ 4095 →
      ∃ t, exec (.dial p st) s = .next t ∧
        t.pos p = { (s.pos p).afterKey with dialled := some st, buffer := (t.pos p).buffer } ∧
        (s.moments = [] → Told [] p s t) ∧ t.outbound = s.outbound ∧ (∀ m, t.slot m = s.slot m) ∧ SameGroups s t ∧ SamePositionsBut p s t ∧
        SameDirectory s t ∧ SameRegisters s t ∧ SameLink s t)

/-- EXTEND, EXTEND_BLIND, RETRY and HUNT from a TALKING call, or from an extend that is BUSY: the destinations, the attempt
and the effective mode are written and the dialled station is cleared; the station rings with a RING order and a no-answer
deadline, or, with campers, the call is BUSY with no order. A CIRCULAR hunt moves the range's pointer to the station it
chose. That a key row stands for the event at the head of the intake list is the model's choice (log 15). -/
def Obligations.ExtendsStartFromTheTalkCall : Prop :=
  ∀ (s : State) (i : Instr) (p l arg st : Nat) (c : CallRecord) (m : Mode) (hunts : Nat → Option HuntRange),
    Admits s → p ∈ positionNumbers → (s.pos p).avail ≠ .signedOut → OnTalkPath p l c s →
    (c.state = .talking ∨ (c.state = .extending ∧ c.progress = some .busy ∧ c.talkSide = some .source)) →
    ((i = .extend p ∧ KeyAtHead p 5 arg s ∧ (s.pos p).dialled = some st ∧ m = .screened ∧ hunts = s.huntRange) ∨
      (i = .extendBlind p ∧ KeyAtHead p 6 arg s ∧ (s.pos p).dialled = some st ∧ m = .blind ∧ hunts = s.huntRange) ∨
      (i = .retry p ∧ KeyAtHead p 7 arg s ∧ c.curDest = some st ∧ m = c.mode ∧ hunts = s.huntRange) ∨
      (i = .hunt p arg ∧ KeyAtHead p 8 arg s ∧ arg ≤ 15 ∧ m = .screened ∧ ∃ r k, s.huntRange arg = some r ∧
        k < (r.first - r.last) + (r.last - r.first) + 1 ∧
        (let place := fun j => match r.mode with
          | .linear => j
          | .circular => ((match r.dir with | .up => r.next - r.first | .down => r.first - r.next) + 1 + j) %
              ((r.first - r.last) + (r.last - r.first) + 1)
         let station := fun j => match r.dir with | .up => r.first + place j | .down => r.first - place j
         st = station k ∧ (s.station st).state = .idle ∧ (s.station st).campList = [] ∧ (s.station st).ring = none ∧
           ∀ j < k, ¬((s.station (station j)).state = .idle ∧ (s.station (station j)).campList = [] ∧
             (s.station (station j)).ring = none)) ∧
        hunts = fun h => if h = arg then
          some (match r.mode with | .linear => r | .circular => { r with next := st }) else s.huntRange h)) →
    ∃ t mode, exec i s = .next t ∧
      mode = (if (s.station st).prot then Mode.screened else match (s.group c.group).policy with
        | .screened => .screened
        | .blind => .blind
        | .select => m) ∧
      ((s.station st).campList = [] ∧ (s.station st).ring = none →
        t.call c.ref = some { c with
          state := .extending, prevDest := c.curDest, curDest := some st, attempt := (c.attempt + 1) % 256,
          mode := mode, fromCamp := false, progress := some .pending, talkSide := some .dest,
          deadline := some ⟨.noAnswer, s.timeCount, s.timers.noAnswer⟩ } ∧
        t.outbound = s.outbound ++ [.ring c.ref st ((c.attempt + 1) % 256)] ∧
        (t.pos p).notice = if (s.station st).prot then some .screened else none) ∧
      ((s.station st).campList ≠ [] ∨ (s.station st).ring ≠ none →
        t.call c.ref = some { c with
          state := .extending, prevDest := c.curDest, curDest := some st, attempt := (c.attempt + 1) % 256,
          mode := mode, fromCamp := false, progress := some .busy, talkSide := some .source, deadline := none } ∧
        t.outbound = s.outbound ∧ (t.pos p).notice = some .campersWaiting) ∧
      t.pos p = { (s.pos p).afterKey with
        dialled := none, notice := (t.pos p).notice, buffer := (t.pos p).buffer } ∧
      (∀ h, t.huntRange h = hunts h) ∧ t.stations = s.stations ∧ SameSlotsBut c.ref s t ∧ SameGroups s t ∧
      SamePositionsBut p s t ∧ SameRegisters s t ∧ SameLink s t

/-- CANCEL drops the leg, where there is one, and returns the extend to the source; SWAP moves the headset to the other side
of an answered extend; CAMP holds a BUSY extend and puts it at the tail of its destination's camp list, where the station
allows it and it and the pool have room; where the position becomes offerable in an OFFER group, a pairing is due (log 6).
SWAP is refused, with no change but an ERROR tone, in any other progress. That a
key row stands for the event at the head of the intake list is the model's choice (log 15). -/
def Obligations.CancelSwapAndCamp : Prop :=
  ∀ (s : State) (p l arg : Nat) (c : CallRecord), Admits s → p ∈ positionNumbers → (s.pos p).avail ≠ .signedOut →
    OnTalkPath p l c s → c.state = .extending →
    (∀ orders : List Msg, KeyAtHead p 9 arg s →
      orders = (if c.progress = some .pending ∨ c.progress = some .ringing ∨ c.progress = some .answered
        then [.drop c.ref c.attempt] else []) ++ (if c.talkSide = some .dest then [.attach c.ref p .source] else []) →
      ∃ t, exec (.cancel p) s = .next t ∧
        t.call c.ref = some { c with
          state := .talking, talkSide := some .source, progress := none, deadline := none } ∧
        t.pos p = { (s.pos p).afterKey with buffer := (t.pos p).buffer } ∧ t.outbound = s.outbound ++ orders ∧
        SameSlotsBut c.ref s t ∧ SameGroups s t ∧ SamePositionsBut p s t ∧ SameDirectory s t ∧ SameRegisters s t ∧
        SameLink s t) ∧
    (∀ side : Side, KeyAtHead p 10 arg s → c.progress = some .answered →
      ((c.talkSide = some .dest ∧ side = .source) ∨ (c.talkSide = some .source ∧ side = .dest)) →
      ∃ t, exec (.swap p) s = .next t ∧ t.call c.ref = some { c with talkSide := some side } ∧
        t.pos p = { (s.pos p).afterKey with buffer := (t.pos p).buffer } ∧
        t.outbound = s.outbound ++ [.attach c.ref p side] ∧ SameSlotsBut c.ref s t ∧ SameGroups s t ∧
        SamePositionsBut p s t ∧ SameDirectory s t ∧ SameRegisters s t ∧ SameLink s t) ∧
    (KeyAtHead p 10 arg s → c.progress ≠ some .answered →
      ∃ t, exec (.swap p) s = .next t ∧
        t.pos p = { s.pos p with intake := (s.pos p).intake.tail, buffer := (t.pos p).buffer } ∧
        t.outbound = s.outbound ∧ (∀ n, t.slot n = s.slot n) ∧ SameGroups s t ∧ SamePositionsBut p s t ∧
        SameDirectory s t ∧ SameRegisters s t ∧ SameLink s t) ∧
    (∀ st, KeyAtHead p 11 arg s → c.progress = some .busy → c.curDest = some st →
      (s.station st).campAllowed = true → (s.station st).occupancy < 3 → poolOccupancy s < 64 →
      ∃ t, exec (.camp p) s = .next t ∧
        t.call c.ref = some { c with
          state := .camped, loop := none, progress := none, talkSide := none, campStart := some s.timeCount,
          deadline := some ⟨.camp, s.timeCount, s.timers.camp⟩ } ∧
        t.station st = { s.station st with campList := (s.station st).campList ++ [c.ref] } ∧
        (∀ x, x ≠ st → t.station x = s.station x) ∧ t.hunts = s.hunts ∧
        (∀ m, (t.pos p).loopAt m = if m = l then none else (s.pos p).loopAt m) ∧
        t.pos p = { (s.pos p).afterKey with
          loops := (t.pos p).loops, talkLoop := none, dialled := none, idleSince := s.timeCount,
          buffer := (t.pos p).buffer } ∧
        PairingFollows p s t ∧ t.outbound = s.outbound ++ [.hold c.ref] ∧ SameSlotsBut c.ref s t ∧ SameGroups s t ∧ SamePositionsBut p s t ∧
        SameRegisters s t ∧ SameLink s t)

/-- SIGN_IN makes a SIGNED_OUT position with an empty release list READY, idle since now, and its group DAY; under
STAFF_FIRST the entry to DAY ends an active sweep with every mark cleared, under SWEEP_FIRST it goes on; in a group that is
DAY already, SIGN_IN changes neither the sweep nor the marks, whatever the policy. READY ends a BREAK, and where the
position becomes offerable in an OFFER group, a pairing is due. BREAK withdraws a pending offer and returns its call to the
queue; its lamp shows BREAK ahead of the OFFER lamp going dark (log 7). That a key row stands for the event at the head of
the intake list is the model's choice (log 15), and the flag that a pairing is due the model's own (log 6). -/
def Obligations.AvailabilityKeys : Prop :=
  ∀ (s : State) (p g arg : Nat), Admits s → p ∈ positionNumbers → g = (s.pos p).group →
    (KeyAtHead p 14 arg s → (s.pos p).avail = .signedOut → (s.pos p).releaseList = [] →
      ∃ t, exec (.signIn p) s = .next t ∧
        t.pos p = { (s.pos p).afterKey with avail := .ready, idleSince := s.timeCount, buffer := (t.pos p).buffer } ∧
        (t.group g).mode = .day ∧ (t.group g).queue = (s.group g).queue ∧
        ((s.group g).mode = .night → (s.group g).sweep ≠ .idle → (s.group g).sweepPolicy = .staffFirst →
          (t.group g).sweep = .idle ∧ ((s.group g).offerMode = .offer → (t.group g).pairingDue = true) ∧
          ∀ n, t.slot n = { s.slot n with call := (s.slot n).call.map (fun d =>
            if d.ref ∈ (s.group g).queue then { d with nightBound := false } else d) }) ∧
        ((s.group g).mode = .day ∨ (s.group g).sweep = .idle ∨ (s.group g).sweepPolicy = .sweepFirst →
          (t.group g).sweep = (s.group g).sweep ∧ ∀ n, t.slot n = s.slot n) ∧
        ((s.group g).offerMode = .offer → (s.pos p).enabled = true → (s.pos p).talkLoop = none →
          (s.pos p).offer = none → (∀ l ∈ loopNumbers, (s.pos p).loopAt l = none) → g ∈ groupNumbers →
          (t.group g).pairingDue = true) ∧
        t.outbound = s.outbound ∧ (∀ x, x ≠ g → SameGroup x s t) ∧ SamePositionsBut p s t ∧ SameDirectory s t ∧
        SameRegisters s t ∧ SameLink s t) ∧
    (KeyAtHead p 12 arg s → (s.pos p).avail = .onBreak →
      ∃ t, exec (.ready p) s = .next t ∧
        t.pos p = { (s.pos p).afterKey with avail := .ready, buffer := (t.pos p).buffer } ∧
        PairingFollows p s t ∧ t.outbound = s.outbound ∧ (∀ n, t.slot n = s.slot n) ∧ SameGroups s t ∧ SamePositionsBut p s t ∧
        SameDirectory s t ∧ SameRegisters s t ∧ SameLink s t) ∧
    (KeyAtHead p 13 arg s → (s.pos p).avail = .ready →
      ∃ t, exec (.breakKey p) s = .next t ∧
        t.pos p = { (s.pos p).afterKey with avail := .onBreak, offer := none, buffer := (t.pos p).buffer } ∧
        t.outbound = s.outbound ∧ SamePositionsBut p s t ∧ SameDirectory s t ∧ SameRegisters s t ∧ SameLink s t ∧
        ((s.pos p).offer = none → (∀ n, t.slot n = s.slot n) ∧ SameGroups s t) ∧
        (∀ c, (s.pos p).offer = some c.ref → s.call c.ref = some c →
          (∃ ahead behind, (s.group c.group).queue = ahead ++ behind ∧
            (t.group c.group).queue = ahead ++ c.ref :: behind ∧
            (∀ r ∈ ahead, ∀ x, s.call r = some x → x.arrivalSeq ≤ c.arrivalSeq) ∧
            (∀ r ∈ behind.head?, ∃ x, s.call r = some x ∧ c.arrivalSeq < x.arrivalSeq)) ∧
          (∃ d, t.call c.ref = some d ∧ d.state = .queued ∧ d.enqueueTime = c.enqueueTime ∧
            d.arrivalSeq = c.arrivalSeq ∧ d.bypass = c.bypass) ∧
          ((s.group c.group).offerMode = .offer → (t.group c.group).pairingDue = true) ∧ SameSlotsBut c.ref s t ∧
          (s.moments = [] → ToldInOrder [] [.availability .onBreak, .lamp 7 .dark] p s t) ∧
          ∀ x, x ≠ c.group → SameGroup x s t))

/-! ## What every step keeps -/

/-- No two live records have the same origin: every step keeps it (law L1). -/
def Obligations.EveryStepKeepsOriginsUnique : Prop :=
  ∀ s t : State, OriginsUnique s → step s = .next t → OriginsUnique t

/-- Every live record holds the one place that its state gives it, with a deadline of that state only, and every place -
queue, pending offer, loop, talk path, camp list, camp ring - holds a call in the state of the place: every step keeps it,
where the records carry their slots' references and the consoles belong to enabled positions (laws L2, L3, L9). -/
def Obligations.EveryStepKeepsCallsInTheirPlaces : Prop :=
  ∀ s t : State, RecordsNamed s → ConsolesServed s → CallsPlaced s → step s = .next t → CallsPlaced t

/-- No two live records share an arrival sequence, none is above the counter, and every queue is in strictly increasing
sequence: every step keeps it, where every call holds its place (law L5). -/
def Obligations.EveryStepKeepsTheQueueOrder : Prop :=
  ∀ s t : State, RecordsNamed s → ConsolesServed s → CallsPlaced s → QueuesOrdered s → step s = .next t →
    QueuesOrdered t

/-- Only QUEUED calls are night-bound, and a sweep is ACTIVE exactly while a call of the group's queue is night-bound: every
step keeps it, where every call holds its place (law L11). -/
def Obligations.EveryStepKeepsTheNightMarks : Prop :=
  ∀ s t : State, RecordsNamed s → ConsolesServed s → CallsPlaced s → MarksSwept s → step s = .next t → MarksSwept t

/-- Every live record keeps its slot's reference; the outbound queue holds at most 128 messages and no station more than 3
calls: every step keeps it (laws L12, L13). So does the status byte of a transaction in progress agree with LOCKED and
DISCARDED, and show ATTN only while a message waits; that the state holds that byte is the model's form (log 4). -/
def Obligations.EveryStepKeepsTheQueuesBounded : Prop :=
  ∀ s t : State, RecordsNamed s → QueuesBounded s → step s = .next t →
    RecordsNamed t ∧ QueuesBounded t ∧ (OpeningTrue s → OpeningTrue t)

/-- The limits and the configured numbers stay in their ranges, and no bypass or recall count passes its limit: every step
keeps it (laws L6, L8). -/
def Obligations.EveryStepKeepsTheLimits : Prop :=
  ∀ s t : State, CountsWithinLimits s → SettingsInRange s → step s = .next t →
    CountsWithinLimits t ∧ SettingsInRange t

/-- A group is DAY exactly when one of its positions is signed in, and an offer is pending only at a READY position with an
empty talk path: every step keeps it (laws L10, L4). -/
def Obligations.EveryStepKeepsDayIffStaffed : Prop :=
  ∀ s t : State, DayIffStaffed s → OffersAtReady s → ConsolesServed s → step s = .next t →
    DayIffStaffed t ∧ OffersAtReady t ∧ ConsolesServed t

/-- Every table keeps its canonical form, between events no moment is outstanding, and no output buffer holds more than 16
messages: every step keeps it. The canonical form is the model's own (log 18). -/
def Obligations.EveryStepKeepsTablesAndBuffers : Prop :=
  ∀ s t : State, TablesCanonical s → s.moments = [] → (∀ p, (s.pos p).buffer.length ≤ 16) → step s = .next t →
    TablesCanonical t ∧ t.moments = [] ∧ ∀ p, (t.pos p).buffer.length ≤ 16

/-- The hardware-reset state meets every law that the steps keep. The phase of the reset state (log 3) and the canonical
form of the tables (log 18) are the model's own. -/
def Obligations.ResetMeetsEveryLaw : Prop :=
  OriginsUnique State.reset ∧ RecordsNamed State.reset ∧ QueuesBounded State.reset ∧ CountsWithinLimits State.reset ∧
    SettingsInRange State.reset ∧ DayIffStaffed State.reset ∧ OffersAtReady State.reset ∧ ConsolesServed State.reset ∧
    TablesCanonical State.reset ∧ CallsPlaced State.reset ∧ QueuesOrdered State.reset ∧ MarksSwept State.reset ∧
    OpeningTrue State.reset ∧ State.reset.moments = [] ∧ ∀ p, (State.reset.pos p).buffer.length ≤ 16

/-- The framing of a WRITE and the encoding of requests agree: every request that the link can spell is read back from its
own frame, with every operand at every value, whatever bytes follow the frame. -/
def Obligations.RequestFramesRoundTrip : Prop :=
  ∀ (i : Instr) (frame more : List Byte), i.wf = true → encodeRequest i = some frame →
    decodeTransaction (2 :: frame ++ more) = i
end

