-- ==== Sys2Proof/Laws/State.lean ====
section
/-! SUPPORT. What each update of the state leaves as it is: one lemma for each field and update, each true by unfolding. -/

namespace Sys2Proof.Machine

variable (s : State)

/-! ## setSlot -/
@[simp] theorem setSlot_phase (n : Nat) (v : Slot) : (s.setSlot n v).phase = s.phase := rfl
@[simp] theorem setSlot_timeCount (n : Nat) (v : Slot) : (s.setSlot n v).timeCount = s.timeCount := rfl
@[simp] theorem setSlot_arrivalCounter (n : Nat) (v : Slot) : (s.setSlot n v).arrivalCounter = s.arrivalCounter := rfl
@[simp] theorem setSlot_groups (n : Nat) (v : Slot) : (s.setSlot n v).groups = s.groups := rfl
@[simp] theorem setSlot_classes (n : Nat) (v : Slot) : (s.setSlot n v).classes = s.classes := rfl
@[simp] theorem setSlot_ageShift (n : Nat) (v : Slot) : (s.setSlot n v).ageShift = s.ageShift := rfl
@[simp] theorem setSlot_bypassLimit (n : Nat) (v : Slot) : (s.setSlot n v).bypassLimit = s.bypassLimit := rfl
@[simp] theorem setSlot_recallLimit (n : Nat) (v : Slot) : (s.setSlot n v).recallLimit = s.recallLimit := rfl
@[simp] theorem setSlot_timers (n : Nat) (v : Slot) : (s.setSlot n v).timers = s.timers := rfl
@[simp] theorem setSlot_positions (n : Nat) (v : Slot) : (s.setSlot n v).positions = s.positions := rfl
@[simp] theorem setSlot_stations (n : Nat) (v : Slot) : (s.setSlot n v).stations = s.stations := rfl
@[simp] theorem setSlot_hunts (n : Nat) (v : Slot) : (s.setSlot n v).hunts = s.hunts := rfl
@[simp] theorem setSlot_outbound (n : Nat) (v : Slot) : (s.setSlot n v).outbound = s.outbound := rfl
@[simp] theorem setSlot_waiting (n : Nat) (v : Slot) : (s.setSlot n v).waiting = s.waiting := rfl
@[simp] theorem setSlot_locked (n : Nat) (v : Slot) : (s.setSlot n v).locked = s.locked := rfl
@[simp] theorem setSlot_discarded (n : Nat) (v : Slot) : (s.setSlot n v).discarded = s.discarded := rfl
@[simp] theorem setSlot_scan (n : Nat) (v : Slot) : (s.setSlot n v).scan = s.scan := rfl
@[simp] theorem setSlot_block (n : Nat) (v : Slot) : (s.setSlot n v).block = s.block := rfl
@[simp] theorem setSlot_toPoll (n : Nat) (v : Slot) : (s.setSlot n v).toPoll = s.toPoll := rfl
@[simp] theorem setSlot_exchange (n : Nat) (v : Slot) : (s.setSlot n v).exchange = s.exchange := rfl
@[simp] theorem setSlot_opened (n : Nat) (v : Slot) : (s.setSlot n v).opened = s.opened := rfl
@[simp] theorem setSlot_overlaps (n : Nat) (v : Slot) : (s.setSlot n v).overlaps = s.overlaps := rfl
@[simp] theorem setSlot_sdo (n : Nat) (v : Slot) : (s.setSlot n v).sdo = s.sdo := rfl
@[simp] theorem setSlot_bus (n : Nat) (v : Slot) : (s.setSlot n v).bus = s.bus := rfl
@[simp] theorem setSlot_moments (n : Nat) (v : Slot) : (s.setSlot n v).moments = s.moments := rfl
@[simp] theorem setSlot_freeDraws (n : Nat) (v : Slot) : (s.setSlot n v).freeDraws = s.freeDraws := rfl
@[simp] theorem setSlot_pending (n : Nat) (v : Slot) : (s.setSlot n v).pending = s.pending := rfl

/-! ## modGroup -/
@[simp] theorem modGroup_phase (g : Nat) (f : GroupRecord → GroupRecord) : (s.modGroup g f).phase = s.phase := rfl
@[simp] theorem modGroup_timeCount (g : Nat) (f : GroupRecord → GroupRecord) : (s.modGroup g f).timeCount = s.timeCount := rfl
@[simp] theorem modGroup_slots (g : Nat) (f : GroupRecord → GroupRecord) : (s.modGroup g f).slots = s.slots := rfl
@[simp] theorem modGroup_arrivalCounter (g : Nat) (f : GroupRecord → GroupRecord) : (s.modGroup g f).arrivalCounter = s.arrivalCounter := rfl
@[simp] theorem modGroup_classes (g : Nat) (f : GroupRecord → GroupRecord) : (s.modGroup g f).classes = s.classes := rfl
@[simp] theorem modGroup_ageShift (g : Nat) (f : GroupRecord → GroupRecord) : (s.modGroup g f).ageShift = s.ageShift := rfl
@[simp] theorem modGroup_bypassLimit (g : Nat) (f : GroupRecord → GroupRecord) : (s.modGroup g f).bypassLimit = s.bypassLimit := rfl
@[simp] theorem modGroup_recallLimit (g : Nat) (f : GroupRecord → GroupRecord) : (s.modGroup g f).recallLimit = s.recallLimit := rfl
@[simp] theorem modGroup_timers (g : Nat) (f : GroupRecord → GroupRecord) : (s.modGroup g f).timers = s.timers := rfl
@[simp] theorem modGroup_positions (g : Nat) (f : GroupRecord → GroupRecord) : (s.modGroup g f).positions = s.positions := rfl
@[simp] theorem modGroup_stations (g : Nat) (f : GroupRecord → GroupRecord) : (s.modGroup g f).stations = s.stations := rfl
@[simp] theorem modGroup_hunts (g : Nat) (f : GroupRecord → GroupRecord) : (s.modGroup g f).hunts = s.hunts := rfl
@[simp] theorem modGroup_outbound (g : Nat) (f : GroupRecord → GroupRecord) : (s.modGroup g f).outbound = s.outbound := rfl
@[simp] theorem modGroup_waiting (g : Nat) (f : GroupRecord → GroupRecord) : (s.modGroup g f).waiting = s.waiting := rfl
@[simp] theorem modGroup_locked (g : Nat) (f : GroupRecord → GroupRecord) : (s.modGroup g f).locked = s.locked := rfl
@[simp] theorem modGroup_discarded (g : Nat) (f : GroupRecord → GroupRecord) : (s.modGroup g f).discarded = s.discarded := rfl
@[simp] theorem modGroup_scan (g : Nat) (f : GroupRecord → GroupRecord) : (s.modGroup g f).scan = s.scan := rfl
@[simp] theorem modGroup_block (g : Nat) (f : GroupRecord → GroupRecord) : (s.modGroup g f).block = s.block := rfl
@[simp] theorem modGroup_toPoll (g : Nat) (f : GroupRecord → GroupRecord) : (s.modGroup g f).toPoll = s.toPoll := rfl
@[simp] theorem modGroup_exchange (g : Nat) (f : GroupRecord → GroupRecord) : (s.modGroup g f).exchange = s.exchange := rfl
@[simp] theorem modGroup_opened (g : Nat) (f : GroupRecord → GroupRecord) : (s.modGroup g f).opened = s.opened := rfl
@[simp] theorem modGroup_overlaps (g : Nat) (f : GroupRecord → GroupRecord) : (s.modGroup g f).overlaps = s.overlaps := rfl
@[simp] theorem modGroup_sdo (g : Nat) (f : GroupRecord → GroupRecord) : (s.modGroup g f).sdo = s.sdo := rfl
@[simp] theorem modGroup_bus (g : Nat) (f : GroupRecord → GroupRecord) : (s.modGroup g f).bus = s.bus := rfl
@[simp] theorem modGroup_moments (g : Nat) (f : GroupRecord → GroupRecord) : (s.modGroup g f).moments = s.moments := rfl
@[simp] theorem modGroup_freeDraws (g : Nat) (f : GroupRecord → GroupRecord) : (s.modGroup g f).freeDraws = s.freeDraws := rfl
@[simp] theorem modGroup_pending (g : Nat) (f : GroupRecord → GroupRecord) : (s.modGroup g f).pending = s.pending := rfl

/-! ## setCls -/
@[simp] theorem setCls_phase (n : Nat) (v : ClassEntry) : (s.setCls n v).phase = s.phase := rfl
@[simp] theorem setCls_timeCount (n : Nat) (v : ClassEntry) : (s.setCls n v).timeCount = s.timeCount := rfl
@[simp] theorem setCls_slots (n : Nat) (v : ClassEntry) : (s.setCls n v).slots = s.slots := rfl
@[simp] theorem setCls_arrivalCounter (n : Nat) (v : ClassEntry) : (s.setCls n v).arrivalCounter = s.arrivalCounter := rfl
@[simp] theorem setCls_groups (n : Nat) (v : ClassEntry) : (s.setCls n v).groups = s.groups := rfl
@[simp] theorem setCls_ageShift (n : Nat) (v : ClassEntry) : (s.setCls n v).ageShift = s.ageShift := rfl
@[simp] theorem setCls_bypassLimit (n : Nat) (v : ClassEntry) : (s.setCls n v).bypassLimit = s.bypassLimit := rfl
@[simp] theorem setCls_recallLimit (n : Nat) (v : ClassEntry) : (s.setCls n v).recallLimit = s.recallLimit := rfl
@[simp] theorem setCls_timers (n : Nat) (v : ClassEntry) : (s.setCls n v).timers = s.timers := rfl
@[simp] theorem setCls_positions (n : Nat) (v : ClassEntry) : (s.setCls n v).positions = s.positions := rfl
@[simp] theorem setCls_stations (n : Nat) (v : ClassEntry) : (s.setCls n v).stations = s.stations := rfl
@[simp] theorem setCls_hunts (n : Nat) (v : ClassEntry) : (s.setCls n v).hunts = s.hunts := rfl
@[simp] theorem setCls_outbound (n : Nat) (v : ClassEntry) : (s.setCls n v).outbound = s.outbound := rfl
@[simp] theorem setCls_waiting (n : Nat) (v : ClassEntry) : (s.setCls n v).waiting = s.waiting := rfl
@[simp] theorem setCls_locked (n : Nat) (v : ClassEntry) : (s.setCls n v).locked = s.locked := rfl
@[simp] theorem setCls_discarded (n : Nat) (v : ClassEntry) : (s.setCls n v).discarded = s.discarded := rfl
@[simp] theorem setCls_scan (n : Nat) (v : ClassEntry) : (s.setCls n v).scan = s.scan := rfl
@[simp] theorem setCls_block (n : Nat) (v : ClassEntry) : (s.setCls n v).block = s.block := rfl
@[simp] theorem setCls_toPoll (n : Nat) (v : ClassEntry) : (s.setCls n v).toPoll = s.toPoll := rfl
@[simp] theorem setCls_exchange (n : Nat) (v : ClassEntry) : (s.setCls n v).exchange = s.exchange := rfl
@[simp] theorem setCls_opened (n : Nat) (v : ClassEntry) : (s.setCls n v).opened = s.opened := rfl
@[simp] theorem setCls_overlaps (n : Nat) (v : ClassEntry) : (s.setCls n v).overlaps = s.overlaps := rfl
@[simp] theorem setCls_sdo (n : Nat) (v : ClassEntry) : (s.setCls n v).sdo = s.sdo := rfl
@[simp] theorem setCls_bus (n : Nat) (v : ClassEntry) : (s.setCls n v).bus = s.bus := rfl
@[simp] theorem setCls_moments (n : Nat) (v : ClassEntry) : (s.setCls n v).moments = s.moments := rfl
@[simp] theorem setCls_freeDraws (n : Nat) (v : ClassEntry) : (s.setCls n v).freeDraws = s.freeDraws := rfl
@[simp] theorem setCls_pending (n : Nat) (v : ClassEntry) : (s.setCls n v).pending = s.pending := rfl

/-! ## modPos -/
@[simp] theorem modPos_phase (p : Nat) (f : Position → Position) : (s.modPos p f).phase = s.phase := rfl
@[simp] theorem modPos_timeCount (p : Nat) (f : Position → Position) : (s.modPos p f).timeCount = s.timeCount := rfl
@[simp] theorem modPos_slots (p : Nat) (f : Position → Position) : (s.modPos p f).slots = s.slots := rfl
@[simp] theorem modPos_arrivalCounter (p : Nat) (f : Position → Position) : (s.modPos p f).arrivalCounter = s.arrivalCounter := rfl
@[simp] theorem modPos_groups (p : Nat) (f : Position → Position) : (s.modPos p f).groups = s.groups := rfl
@[simp] theorem modPos_classes (p : Nat) (f : Position → Position) : (s.modPos p f).classes = s.classes := rfl
@[simp] theorem modPos_ageShift (p : Nat) (f : Position → Position) : (s.modPos p f).ageShift = s.ageShift := rfl
@[simp] theorem modPos_bypassLimit (p : Nat) (f : Position → Position) : (s.modPos p f).bypassLimit = s.bypassLimit := rfl
@[simp] theorem modPos_recallLimit (p : Nat) (f : Position → Position) : (s.modPos p f).recallLimit = s.recallLimit := rfl
@[simp] theorem modPos_timers (p : Nat) (f : Position → Position) : (s.modPos p f).timers = s.timers := rfl
@[simp] theorem modPos_stations (p : Nat) (f : Position → Position) : (s.modPos p f).stations = s.stations := rfl
@[simp] theorem modPos_hunts (p : Nat) (f : Position → Position) : (s.modPos p f).hunts = s.hunts := rfl
@[simp] theorem modPos_outbound (p : Nat) (f : Position → Position) : (s.modPos p f).outbound = s.outbound := rfl
@[simp] theorem modPos_waiting (p : Nat) (f : Position → Position) : (s.modPos p f).waiting = s.waiting := rfl
@[simp] theorem modPos_locked (p : Nat) (f : Position → Position) : (s.modPos p f).locked = s.locked := rfl
@[simp] theorem modPos_discarded (p : Nat) (f : Position → Position) : (s.modPos p f).discarded = s.discarded := rfl
@[simp] theorem modPos_scan (p : Nat) (f : Position → Position) : (s.modPos p f).scan = s.scan := rfl
@[simp] theorem modPos_block (p : Nat) (f : Position → Position) : (s.modPos p f).block = s.block := rfl
@[simp] theorem modPos_toPoll (p : Nat) (f : Position → Position) : (s.modPos p f).toPoll = s.toPoll := rfl
@[simp] theorem modPos_exchange (p : Nat) (f : Position → Position) : (s.modPos p f).exchange = s.exchange := rfl
@[simp] theorem modPos_opened (p : Nat) (f : Position → Position) : (s.modPos p f).opened = s.opened := rfl
@[simp] theorem modPos_overlaps (p : Nat) (f : Position → Position) : (s.modPos p f).overlaps = s.overlaps := rfl
@[simp] theorem modPos_sdo (p : Nat) (f : Position → Position) : (s.modPos p f).sdo = s.sdo := rfl
@[simp] theorem modPos_bus (p : Nat) (f : Position → Position) : (s.modPos p f).bus = s.bus := rfl
@[simp] theorem modPos_moments (p : Nat) (f : Position → Position) : (s.modPos p f).moments = s.moments := rfl
@[simp] theorem modPos_freeDraws (p : Nat) (f : Position → Position) : (s.modPos p f).freeDraws = s.freeDraws := rfl
@[simp] theorem modPos_pending (p : Nat) (f : Position → Position) : (s.modPos p f).pending = s.pending := rfl

/-! ## modStation -/
@[simp] theorem modStation_phase (n : Nat) (f : Station → Station) : (s.modStation n f).phase = s.phase := rfl
@[simp] theorem modStation_timeCount (n : Nat) (f : Station → Station) : (s.modStation n f).timeCount = s.timeCount := rfl
@[simp] theorem modStation_slots (n : Nat) (f : Station → Station) : (s.modStation n f).slots = s.slots := rfl
@[simp] theorem modStation_arrivalCounter (n : Nat) (f : Station → Station) : (s.modStation n f).arrivalCounter = s.arrivalCounter := rfl
@[simp] theorem modStation_groups (n : Nat) (f : Station → Station) : (s.modStation n f).groups = s.groups := rfl
@[simp] theorem modStation_classes (n : Nat) (f : Station → Station) : (s.modStation n f).classes = s.classes := rfl
@[simp] theorem modStation_ageShift (n : Nat) (f : Station → Station) : (s.modStation n f).ageShift = s.ageShift := rfl
@[simp] theorem modStation_bypassLimit (n : Nat) (f : Station → Station) : (s.modStation n f).bypassLimit = s.bypassLimit := rfl
@[simp] theorem modStation_recallLimit (n : Nat) (f : Station → Station) : (s.modStation n f).recallLimit = s.recallLimit := rfl
@[simp] theorem modStation_timers (n : Nat) (f : Station → Station) : (s.modStation n f).timers = s.timers := rfl
@[simp] theorem modStation_positions (n : Nat) (f : Station → Station) : (s.modStation n f).positions = s.positions := rfl
@[simp] theorem modStation_hunts (n : Nat) (f : Station → Station) : (s.modStation n f).hunts = s.hunts := rfl
@[simp] theorem modStation_outbound (n : Nat) (f : Station → Station) : (s.modStation n f).outbound = s.outbound := rfl
@[simp] theorem modStation_waiting (n : Nat) (f : Station → Station) : (s.modStation n f).waiting = s.waiting := rfl
@[simp] theorem modStation_locked (n : Nat) (f : Station → Station) : (s.modStation n f).locked = s.locked := rfl
@[simp] theorem modStation_discarded (n : Nat) (f : Station → Station) : (s.modStation n f).discarded = s.discarded := rfl
@[simp] theorem modStation_scan (n : Nat) (f : Station → Station) : (s.modStation n f).scan = s.scan := rfl
@[simp] theorem modStation_block (n : Nat) (f : Station → Station) : (s.modStation n f).block = s.block := rfl
@[simp] theorem modStation_toPoll (n : Nat) (f : Station → Station) : (s.modStation n f).toPoll = s.toPoll := rfl
@[simp] theorem modStation_exchange (n : Nat) (f : Station → Station) : (s.modStation n f).exchange = s.exchange := rfl
@[simp] theorem modStation_opened (n : Nat) (f : Station → Station) : (s.modStation n f).opened = s.opened := rfl
@[simp] theorem modStation_overlaps (n : Nat) (f : Station → Station) : (s.modStation n f).overlaps = s.overlaps := rfl
@[simp] theorem modStation_sdo (n : Nat) (f : Station → Station) : (s.modStation n f).sdo = s.sdo := rfl
@[simp] theorem modStation_bus (n : Nat) (f : Station → Station) : (s.modStation n f).bus = s.bus := rfl
@[simp] theorem modStation_moments (n : Nat) (f : Station → Station) : (s.modStation n f).moments = s.moments := rfl
@[simp] theorem modStation_freeDraws (n : Nat) (f : Station → Station) : (s.modStation n f).freeDraws = s.freeDraws := rfl
@[simp] theorem modStation_pending (n : Nat) (f : Station → Station) : (s.modStation n f).pending = s.pending := rfl

/-! ## setHunt -/
@[simp] theorem setHunt_phase (n : Nat) (v : Option HuntRange) : (s.setHunt n v).phase = s.phase := rfl
@[simp] theorem setHunt_timeCount (n : Nat) (v : Option HuntRange) : (s.setHunt n v).timeCount = s.timeCount := rfl
@[simp] theorem setHunt_slots (n : Nat) (v : Option HuntRange) : (s.setHunt n v).slots = s.slots := rfl
@[simp] theorem setHunt_arrivalCounter (n : Nat) (v : Option HuntRange) : (s.setHunt n v).arrivalCounter = s.arrivalCounter := rfl
@[simp] theorem setHunt_groups (n : Nat) (v : Option HuntRange) : (s.setHunt n v).groups = s.groups := rfl
@[simp] theorem setHunt_classes (n : Nat) (v : Option HuntRange) : (s.setHunt n v).classes = s.classes := rfl
@[simp] theorem setHunt_ageShift (n : Nat) (v : Option HuntRange) : (s.setHunt n v).ageShift = s.ageShift := rfl
@[simp] theorem setHunt_bypassLimit (n : Nat) (v : Option HuntRange) : (s.setHunt n v).bypassLimit = s.bypassLimit := rfl
@[simp] theorem setHunt_recallLimit (n : Nat) (v : Option HuntRange) : (s.setHunt n v).recallLimit = s.recallLimit := rfl
@[simp] theorem setHunt_timers (n : Nat) (v : Option HuntRange) : (s.setHunt n v).timers = s.timers := rfl
@[simp] theorem setHunt_positions (n : Nat) (v : Option HuntRange) : (s.setHunt n v).positions = s.positions := rfl
@[simp] theorem setHunt_stations (n : Nat) (v : Option HuntRange) : (s.setHunt n v).stations = s.stations := rfl
@[simp] theorem setHunt_outbound (n : Nat) (v : Option HuntRange) : (s.setHunt n v).outbound = s.outbound := rfl
@[simp] theorem setHunt_waiting (n : Nat) (v : Option HuntRange) : (s.setHunt n v).waiting = s.waiting := rfl
@[simp] theorem setHunt_locked (n : Nat) (v : Option HuntRange) : (s.setHunt n v).locked = s.locked := rfl
@[simp] theorem setHunt_discarded (n : Nat) (v : Option HuntRange) : (s.setHunt n v).discarded = s.discarded := rfl
@[simp] theorem setHunt_scan (n : Nat) (v : Option HuntRange) : (s.setHunt n v).scan = s.scan := rfl
@[simp] theorem setHunt_block (n : Nat) (v : Option HuntRange) : (s.setHunt n v).block = s.block := rfl
@[simp] theorem setHunt_toPoll (n : Nat) (v : Option HuntRange) : (s.setHunt n v).toPoll = s.toPoll := rfl
@[simp] theorem setHunt_exchange (n : Nat) (v : Option HuntRange) : (s.setHunt n v).exchange = s.exchange := rfl
@[simp] theorem setHunt_opened (n : Nat) (v : Option HuntRange) : (s.setHunt n v).opened = s.opened := rfl
@[simp] theorem setHunt_overlaps (n : Nat) (v : Option HuntRange) : (s.setHunt n v).overlaps = s.overlaps := rfl
@[simp] theorem setHunt_sdo (n : Nat) (v : Option HuntRange) : (s.setHunt n v).sdo = s.sdo := rfl
@[simp] theorem setHunt_bus (n : Nat) (v : Option HuntRange) : (s.setHunt n v).bus = s.bus := rfl
@[simp] theorem setHunt_moments (n : Nat) (v : Option HuntRange) : (s.setHunt n v).moments = s.moments := rfl
@[simp] theorem setHunt_freeDraws (n : Nat) (v : Option HuntRange) : (s.setHunt n v).freeDraws = s.freeDraws := rfl
@[simp] theorem setHunt_pending (n : Nat) (v : Option HuntRange) : (s.setHunt n v).pending = s.pending := rfl

/-! ## mapPositions -/
@[simp] theorem mapPositions_phase (f : Nat → Position → Position) : (s.mapPositions f).phase = s.phase := by simp only [State.mapPositions]
@[simp] theorem mapPositions_timeCount (f : Nat → Position → Position) : (s.mapPositions f).timeCount = s.timeCount := by simp only [State.mapPositions]
@[simp] theorem mapPositions_slots (f : Nat → Position → Position) : (s.mapPositions f).slots = s.slots := by simp only [State.mapPositions]
@[simp] theorem mapPositions_arrivalCounter (f : Nat → Position → Position) : (s.mapPositions f).arrivalCounter = s.arrivalCounter := by simp only [State.mapPositions]
@[simp] theorem mapPositions_groups (f : Nat → Position → Position) : (s.mapPositions f).groups = s.groups := by simp only [State.mapPositions]
@[simp] theorem mapPositions_classes (f : Nat → Position → Position) : (s.mapPositions f).classes = s.classes := by simp only [State.mapPositions]
@[simp] theorem mapPositions_ageShift (f : Nat → Position → Position) : (s.mapPositions f).ageShift = s.ageShift := by simp only [State.mapPositions]
@[simp] theorem mapPositions_bypassLimit (f : Nat → Position → Position) : (s.mapPositions f).bypassLimit = s.bypassLimit := by simp only [State.mapPositions]
@[simp] theorem mapPositions_recallLimit (f : Nat → Position → Position) : (s.mapPositions f).recallLimit = s.recallLimit := by simp only [State.mapPositions]
@[simp] theorem mapPositions_timers (f : Nat → Position → Position) : (s.mapPositions f).timers = s.timers := by simp only [State.mapPositions]
@[simp] theorem mapPositions_stations (f : Nat → Position → Position) : (s.mapPositions f).stations = s.stations := by simp only [State.mapPositions]
@[simp] theorem mapPositions_hunts (f : Nat → Position → Position) : (s.mapPositions f).hunts = s.hunts := by simp only [State.mapPositions]
@[simp] theorem mapPositions_outbound (f : Nat → Position → Position) : (s.mapPositions f).outbound = s.outbound := by simp only [State.mapPositions]
@[simp] theorem mapPositions_waiting (f : Nat → Position → Position) : (s.mapPositions f).waiting = s.waiting := by simp only [State.mapPositions]
@[simp] theorem mapPositions_locked (f : Nat → Position → Position) : (s.mapPositions f).locked = s.locked := by simp only [State.mapPositions]
@[simp] theorem mapPositions_discarded (f : Nat → Position → Position) : (s.mapPositions f).discarded = s.discarded := by simp only [State.mapPositions]
@[simp] theorem mapPositions_scan (f : Nat → Position → Position) : (s.mapPositions f).scan = s.scan := by simp only [State.mapPositions]
@[simp] theorem mapPositions_block (f : Nat → Position → Position) : (s.mapPositions f).block = s.block := by simp only [State.mapPositions]
@[simp] theorem mapPositions_toPoll (f : Nat → Position → Position) : (s.mapPositions f).toPoll = s.toPoll := by simp only [State.mapPositions]
@[simp] theorem mapPositions_exchange (f : Nat → Position → Position) : (s.mapPositions f).exchange = s.exchange := by simp only [State.mapPositions]
@[simp] theorem mapPositions_opened (f : Nat → Position → Position) : (s.mapPositions f).opened = s.opened := by simp only [State.mapPositions]
@[simp] theorem mapPositions_overlaps (f : Nat → Position → Position) : (s.mapPositions f).overlaps = s.overlaps := by simp only [State.mapPositions]
@[simp] theorem mapPositions_sdo (f : Nat → Position → Position) : (s.mapPositions f).sdo = s.sdo := by simp only [State.mapPositions]
@[simp] theorem mapPositions_bus (f : Nat → Position → Position) : (s.mapPositions f).bus = s.bus := by simp only [State.mapPositions]
@[simp] theorem mapPositions_moments (f : Nat → Position → Position) : (s.mapPositions f).moments = s.moments := by simp only [State.mapPositions]
@[simp] theorem mapPositions_freeDraws (f : Nat → Position → Position) : (s.mapPositions f).freeDraws = s.freeDraws := by simp only [State.mapPositions]
@[simp] theorem mapPositions_pending (f : Nat → Position → Position) : (s.mapPositions f).pending = s.pending := by simp only [State.mapPositions]

/-! ## modCall -/
@[simp] theorem modCall_phase (ref : Nat) (f : CallRecord → CallRecord) : (s.modCall ref f).phase = s.phase := rfl
@[simp] theorem modCall_timeCount (ref : Nat) (f : CallRecord → CallRecord) : (s.modCall ref f).timeCount = s.timeCount := rfl
@[simp] theorem modCall_arrivalCounter (ref : Nat) (f : CallRecord → CallRecord) : (s.modCall ref f).arrivalCounter = s.arrivalCounter := rfl
@[simp] theorem modCall_groups (ref : Nat) (f : CallRecord → CallRecord) : (s.modCall ref f).groups = s.groups := rfl
@[simp] theorem modCall_classes (ref : Nat) (f : CallRecord → CallRecord) : (s.modCall ref f).classes = s.classes := rfl
@[simp] theorem modCall_ageShift (ref : Nat) (f : CallRecord → CallRecord) : (s.modCall ref f).ageShift = s.ageShift := rfl
@[simp] theorem modCall_bypassLimit (ref : Nat) (f : CallRecord → CallRecord) : (s.modCall ref f).bypassLimit = s.bypassLimit := rfl
@[simp] theorem modCall_recallLimit (ref : Nat) (f : CallRecord → CallRecord) : (s.modCall ref f).recallLimit = s.recallLimit := rfl
@[simp] theorem modCall_timers (ref : Nat) (f : CallRecord → CallRecord) : (s.modCall ref f).timers = s.timers := rfl
@[simp] theorem modCall_positions (ref : Nat) (f : CallRecord → CallRecord) : (s.modCall ref f).positions = s.positions := rfl
@[simp] theorem modCall_stations (ref : Nat) (f : CallRecord → CallRecord) : (s.modCall ref f).stations = s.stations := rfl
@[simp] theorem modCall_hunts (ref : Nat) (f : CallRecord → CallRecord) : (s.modCall ref f).hunts = s.hunts := rfl
@[simp] theorem modCall_outbound (ref : Nat) (f : CallRecord → CallRecord) : (s.modCall ref f).outbound = s.outbound := rfl
@[simp] theorem modCall_waiting (ref : Nat) (f : CallRecord → CallRecord) : (s.modCall ref f).waiting = s.waiting := rfl
@[simp] theorem modCall_locked (ref : Nat) (f : CallRecord → CallRecord) : (s.modCall ref f).locked = s.locked := rfl
@[simp] theorem modCall_discarded (ref : Nat) (f : CallRecord → CallRecord) : (s.modCall ref f).discarded = s.discarded := rfl
@[simp] theorem modCall_scan (ref : Nat) (f : CallRecord → CallRecord) : (s.modCall ref f).scan = s.scan := rfl
@[simp] theorem modCall_block (ref : Nat) (f : CallRecord → CallRecord) : (s.modCall ref f).block = s.block := rfl
@[simp] theorem modCall_toPoll (ref : Nat) (f : CallRecord → CallRecord) : (s.modCall ref f).toPoll = s.toPoll := rfl
@[simp] theorem modCall_exchange (ref : Nat) (f : CallRecord → CallRecord) : (s.modCall ref f).exchange = s.exchange := rfl
@[simp] theorem modCall_opened (ref : Nat) (f : CallRecord → CallRecord) : (s.modCall ref f).opened = s.opened := rfl
@[simp] theorem modCall_overlaps (ref : Nat) (f : CallRecord → CallRecord) : (s.modCall ref f).overlaps = s.overlaps := rfl
@[simp] theorem modCall_sdo (ref : Nat) (f : CallRecord → CallRecord) : (s.modCall ref f).sdo = s.sdo := rfl
@[simp] theorem modCall_bus (ref : Nat) (f : CallRecord → CallRecord) : (s.modCall ref f).bus = s.bus := rfl
@[simp] theorem modCall_moments (ref : Nat) (f : CallRecord → CallRecord) : (s.modCall ref f).moments = s.moments := rfl
@[simp] theorem modCall_freeDraws (ref : Nat) (f : CallRecord → CallRecord) : (s.modCall ref f).freeDraws = s.freeDraws := rfl
@[simp] theorem modCall_pending (ref : Nat) (f : CallRecord → CallRecord) : (s.modCall ref f).pending = s.pending := rfl

/-! ## mapCalls -/
@[simp] theorem mapCalls_phase (f : CallRecord → CallRecord) : (s.mapCalls f).phase = s.phase := rfl
@[simp] theorem mapCalls_timeCount (f : CallRecord → CallRecord) : (s.mapCalls f).timeCount = s.timeCount := rfl
@[simp] theorem mapCalls_arrivalCounter (f : CallRecord → CallRecord) : (s.mapCalls f).arrivalCounter = s.arrivalCounter := rfl
@[simp] theorem mapCalls_groups (f : CallRecord → CallRecord) : (s.mapCalls f).groups = s.groups := rfl
@[simp] theorem mapCalls_classes (f : CallRecord → CallRecord) : (s.mapCalls f).classes = s.classes := rfl
@[simp] theorem mapCalls_ageShift (f : CallRecord → CallRecord) : (s.mapCalls f).ageShift = s.ageShift := rfl
@[simp] theorem mapCalls_bypassLimit (f : CallRecord → CallRecord) : (s.mapCalls f).bypassLimit = s.bypassLimit := rfl
@[simp] theorem mapCalls_recallLimit (f : CallRecord → CallRecord) : (s.mapCalls f).recallLimit = s.recallLimit := rfl
@[simp] theorem mapCalls_timers (f : CallRecord → CallRecord) : (s.mapCalls f).timers = s.timers := rfl
@[simp] theorem mapCalls_positions (f : CallRecord → CallRecord) : (s.mapCalls f).positions = s.positions := rfl
@[simp] theorem mapCalls_stations (f : CallRecord → CallRecord) : (s.mapCalls f).stations = s.stations := rfl
@[simp] theorem mapCalls_hunts (f : CallRecord → CallRecord) : (s.mapCalls f).hunts = s.hunts := rfl
@[simp] theorem mapCalls_outbound (f : CallRecord → CallRecord) : (s.mapCalls f).outbound = s.outbound := rfl
@[simp] theorem mapCalls_waiting (f : CallRecord → CallRecord) : (s.mapCalls f).waiting = s.waiting := rfl
@[simp] theorem mapCalls_locked (f : CallRecord → CallRecord) : (s.mapCalls f).locked = s.locked := rfl
@[simp] theorem mapCalls_discarded (f : CallRecord → CallRecord) : (s.mapCalls f).discarded = s.discarded := rfl
@[simp] theorem mapCalls_scan (f : CallRecord → CallRecord) : (s.mapCalls f).scan = s.scan := rfl
@[simp] theorem mapCalls_block (f : CallRecord → CallRecord) : (s.mapCalls f).block = s.block := rfl
@[simp] theorem mapCalls_toPoll (f : CallRecord → CallRecord) : (s.mapCalls f).toPoll = s.toPoll := rfl
@[simp] theorem mapCalls_exchange (f : CallRecord → CallRecord) : (s.mapCalls f).exchange = s.exchange := rfl
@[simp] theorem mapCalls_opened (f : CallRecord → CallRecord) : (s.mapCalls f).opened = s.opened := rfl
@[simp] theorem mapCalls_overlaps (f : CallRecord → CallRecord) : (s.mapCalls f).overlaps = s.overlaps := rfl
@[simp] theorem mapCalls_sdo (f : CallRecord → CallRecord) : (s.mapCalls f).sdo = s.sdo := rfl
@[simp] theorem mapCalls_bus (f : CallRecord → CallRecord) : (s.mapCalls f).bus = s.bus := rfl
@[simp] theorem mapCalls_moments (f : CallRecord → CallRecord) : (s.mapCalls f).moments = s.moments := rfl
@[simp] theorem mapCalls_freeDraws (f : CallRecord → CallRecord) : (s.mapCalls f).freeDraws = s.freeDraws := rfl
@[simp] theorem mapCalls_pending (f : CallRecord → CallRecord) : (s.mapCalls f).pending = s.pending := rfl

/-! ## emit -/
@[simp] theorem emit_phase (m : Msg) : (s.emit m).phase = s.phase := rfl
@[simp] theorem emit_timeCount (m : Msg) : (s.emit m).timeCount = s.timeCount := rfl
@[simp] theorem emit_slots (m : Msg) : (s.emit m).slots = s.slots := rfl
@[simp] theorem emit_arrivalCounter (m : Msg) : (s.emit m).arrivalCounter = s.arrivalCounter := rfl
@[simp] theorem emit_groups (m : Msg) : (s.emit m).groups = s.groups := rfl
@[simp] theorem emit_classes (m : Msg) : (s.emit m).classes = s.classes := rfl
@[simp] theorem emit_ageShift (m : Msg) : (s.emit m).ageShift = s.ageShift := rfl
@[simp] theorem emit_bypassLimit (m : Msg) : (s.emit m).bypassLimit = s.bypassLimit := rfl
@[simp] theorem emit_recallLimit (m : Msg) : (s.emit m).recallLimit = s.recallLimit := rfl
@[simp] theorem emit_timers (m : Msg) : (s.emit m).timers = s.timers := rfl
@[simp] theorem emit_positions (m : Msg) : (s.emit m).positions = s.positions := rfl
@[simp] theorem emit_stations (m : Msg) : (s.emit m).stations = s.stations := rfl
@[simp] theorem emit_hunts (m : Msg) : (s.emit m).hunts = s.hunts := rfl
@[simp] theorem emit_waiting (m : Msg) : (s.emit m).waiting = s.waiting := rfl
@[simp] theorem emit_locked (m : Msg) : (s.emit m).locked = s.locked := rfl
@[simp] theorem emit_discarded (m : Msg) : (s.emit m).discarded = s.discarded := rfl
@[simp] theorem emit_scan (m : Msg) : (s.emit m).scan = s.scan := rfl
@[simp] theorem emit_block (m : Msg) : (s.emit m).block = s.block := rfl
@[simp] theorem emit_toPoll (m : Msg) : (s.emit m).toPoll = s.toPoll := rfl
@[simp] theorem emit_exchange (m : Msg) : (s.emit m).exchange = s.exchange := rfl
@[simp] theorem emit_opened (m : Msg) : (s.emit m).opened = s.opened := rfl
@[simp] theorem emit_overlaps (m : Msg) : (s.emit m).overlaps = s.overlaps := rfl
@[simp] theorem emit_sdo (m : Msg) : (s.emit m).sdo = s.sdo := rfl
@[simp] theorem emit_bus (m : Msg) : (s.emit m).bus = s.bus := rfl
@[simp] theorem emit_moments (m : Msg) : (s.emit m).moments = s.moments := rfl
@[simp] theorem emit_freeDraws (m : Msg) : (s.emit m).freeDraws = s.freeDraws := rfl
@[simp] theorem emit_pending (m : Msg) : (s.emit m).pending = s.pending := rfl

/-! ## note -/
@[simp] theorem note_phase (p : Nat) : (s.note p).phase = s.phase := rfl
@[simp] theorem note_timeCount (p : Nat) : (s.note p).timeCount = s.timeCount := rfl
@[simp] theorem note_slots (p : Nat) : (s.note p).slots = s.slots := rfl
@[simp] theorem note_arrivalCounter (p : Nat) : (s.note p).arrivalCounter = s.arrivalCounter := rfl
@[simp] theorem note_groups (p : Nat) : (s.note p).groups = s.groups := rfl
@[simp] theorem note_classes (p : Nat) : (s.note p).classes = s.classes := rfl
@[simp] theorem note_ageShift (p : Nat) : (s.note p).ageShift = s.ageShift := rfl
@[simp] theorem note_bypassLimit (p : Nat) : (s.note p).bypassLimit = s.bypassLimit := rfl
@[simp] theorem note_recallLimit (p : Nat) : (s.note p).recallLimit = s.recallLimit := rfl
@[simp] theorem note_timers (p : Nat) : (s.note p).timers = s.timers := rfl
@[simp] theorem note_positions (p : Nat) : (s.note p).positions = s.positions := rfl
@[simp] theorem note_stations (p : Nat) : (s.note p).stations = s.stations := rfl
@[simp] theorem note_hunts (p : Nat) : (s.note p).hunts = s.hunts := rfl
@[simp] theorem note_outbound (p : Nat) : (s.note p).outbound = s.outbound := rfl
@[simp] theorem note_waiting (p : Nat) : (s.note p).waiting = s.waiting := rfl
@[simp] theorem note_locked (p : Nat) : (s.note p).locked = s.locked := rfl
@[simp] theorem note_discarded (p : Nat) : (s.note p).discarded = s.discarded := rfl
@[simp] theorem note_scan (p : Nat) : (s.note p).scan = s.scan := rfl
@[simp] theorem note_block (p : Nat) : (s.note p).block = s.block := rfl
@[simp] theorem note_toPoll (p : Nat) : (s.note p).toPoll = s.toPoll := rfl
@[simp] theorem note_exchange (p : Nat) : (s.note p).exchange = s.exchange := rfl
@[simp] theorem note_opened (p : Nat) : (s.note p).opened = s.opened := rfl
@[simp] theorem note_overlaps (p : Nat) : (s.note p).overlaps = s.overlaps := rfl
@[simp] theorem note_sdo (p : Nat) : (s.note p).sdo = s.sdo := rfl
@[simp] theorem note_bus (p : Nat) : (s.note p).bus = s.bus := rfl
@[simp] theorem note_freeDraws (p : Nat) : (s.note p).freeDraws = s.freeDraws := rfl
@[simp] theorem note_pending (p : Nat) : (s.note p).pending = s.pending := rfl

/-! ## tone -/
@[simp] theorem tone_phase (p : Nat) (x : Tone) : (s.tone p x).phase = s.phase := rfl
@[simp] theorem tone_timeCount (p : Nat) (x : Tone) : (s.tone p x).timeCount = s.timeCount := rfl
@[simp] theorem tone_slots (p : Nat) (x : Tone) : (s.tone p x).slots = s.slots := rfl
@[simp] theorem tone_arrivalCounter (p : Nat) (x : Tone) : (s.tone p x).arrivalCounter = s.arrivalCounter := rfl
@[simp] theorem tone_groups (p : Nat) (x : Tone) : (s.tone p x).groups = s.groups := rfl
@[simp] theorem tone_classes (p : Nat) (x : Tone) : (s.tone p x).classes = s.classes := rfl
@[simp] theorem tone_ageShift (p : Nat) (x : Tone) : (s.tone p x).ageShift = s.ageShift := rfl
@[simp] theorem tone_bypassLimit (p : Nat) (x : Tone) : (s.tone p x).bypassLimit = s.bypassLimit := rfl
@[simp] theorem tone_recallLimit (p : Nat) (x : Tone) : (s.tone p x).recallLimit = s.recallLimit := rfl
@[simp] theorem tone_timers (p : Nat) (x : Tone) : (s.tone p x).timers = s.timers := rfl
@[simp] theorem tone_positions (p : Nat) (x : Tone) : (s.tone p x).positions = s.positions := rfl
@[simp] theorem tone_stations (p : Nat) (x : Tone) : (s.tone p x).stations = s.stations := rfl
@[simp] theorem tone_hunts (p : Nat) (x : Tone) : (s.tone p x).hunts = s.hunts := rfl
@[simp] theorem tone_outbound (p : Nat) (x : Tone) : (s.tone p x).outbound = s.outbound := rfl
@[simp] theorem tone_waiting (p : Nat) (x : Tone) : (s.tone p x).waiting = s.waiting := rfl
@[simp] theorem tone_locked (p : Nat) (x : Tone) : (s.tone p x).locked = s.locked := rfl
@[simp] theorem tone_discarded (p : Nat) (x : Tone) : (s.tone p x).discarded = s.discarded := rfl
@[simp] theorem tone_scan (p : Nat) (x : Tone) : (s.tone p x).scan = s.scan := rfl
@[simp] theorem tone_block (p : Nat) (x : Tone) : (s.tone p x).block = s.block := rfl
@[simp] theorem tone_toPoll (p : Nat) (x : Tone) : (s.tone p x).toPoll = s.toPoll := rfl
@[simp] theorem tone_exchange (p : Nat) (x : Tone) : (s.tone p x).exchange = s.exchange := rfl
@[simp] theorem tone_opened (p : Nat) (x : Tone) : (s.tone p x).opened = s.opened := rfl
@[simp] theorem tone_overlaps (p : Nat) (x : Tone) : (s.tone p x).overlaps = s.overlaps := rfl
@[simp] theorem tone_sdo (p : Nat) (x : Tone) : (s.tone p x).sdo = s.sdo := rfl
@[simp] theorem tone_bus (p : Nat) (x : Tone) : (s.tone p x).bus = s.bus := rfl
@[simp] theorem tone_freeDraws (p : Nat) (x : Tone) : (s.tone p x).freeDraws = s.freeDraws := rfl
@[simp] theorem tone_pending (p : Nat) (x : Tone) : (s.tone p x).pending = s.pending := rfl

/-! ## setNotice -/
@[simp] theorem setNotice_phase (p : Nat) (x : Option Notice) : (s.setNotice p x).phase = s.phase := rfl
@[simp] theorem setNotice_timeCount (p : Nat) (x : Option Notice) : (s.setNotice p x).timeCount = s.timeCount := rfl
@[simp] theorem setNotice_slots (p : Nat) (x : Option Notice) : (s.setNotice p x).slots = s.slots := rfl
@[simp] theorem setNotice_arrivalCounter (p : Nat) (x : Option Notice) : (s.setNotice p x).arrivalCounter = s.arrivalCounter := rfl
@[simp] theorem setNotice_groups (p : Nat) (x : Option Notice) : (s.setNotice p x).groups = s.groups := rfl
@[simp] theorem setNotice_classes (p : Nat) (x : Option Notice) : (s.setNotice p x).classes = s.classes := rfl
@[simp] theorem setNotice_ageShift (p : Nat) (x : Option Notice) : (s.setNotice p x).ageShift = s.ageShift := rfl
@[simp] theorem setNotice_bypassLimit (p : Nat) (x : Option Notice) : (s.setNotice p x).bypassLimit = s.bypassLimit := rfl
@[simp] theorem setNotice_recallLimit (p : Nat) (x : Option Notice) : (s.setNotice p x).recallLimit = s.recallLimit := rfl
@[simp] theorem setNotice_timers (p : Nat) (x : Option Notice) : (s.setNotice p x).timers = s.timers := rfl
@[simp] theorem setNotice_stations (p : Nat) (x : Option Notice) : (s.setNotice p x).stations = s.stations := rfl
@[simp] theorem setNotice_hunts (p : Nat) (x : Option Notice) : (s.setNotice p x).hunts = s.hunts := rfl
@[simp] theorem setNotice_outbound (p : Nat) (x : Option Notice) : (s.setNotice p x).outbound = s.outbound := rfl
@[simp] theorem setNotice_waiting (p : Nat) (x : Option Notice) : (s.setNotice p x).waiting = s.waiting := rfl
@[simp] theorem setNotice_locked (p : Nat) (x : Option Notice) : (s.setNotice p x).locked = s.locked := rfl
@[simp] theorem setNotice_discarded (p : Nat) (x : Option Notice) : (s.setNotice p x).discarded = s.discarded := rfl
@[simp] theorem setNotice_scan (p : Nat) (x : Option Notice) : (s.setNotice p x).scan = s.scan := rfl
@[simp] theorem setNotice_block (p : Nat) (x : Option Notice) : (s.setNotice p x).block = s.block := rfl
@[simp] theorem setNotice_toPoll (p : Nat) (x : Option Notice) : (s.setNotice p x).toPoll = s.toPoll := rfl
@[simp] theorem setNotice_exchange (p : Nat) (x : Option Notice) : (s.setNotice p x).exchange = s.exchange := rfl
@[simp] theorem setNotice_opened (p : Nat) (x : Option Notice) : (s.setNotice p x).opened = s.opened := rfl
@[simp] theorem setNotice_overlaps (p : Nat) (x : Option Notice) : (s.setNotice p x).overlaps = s.overlaps := rfl
@[simp] theorem setNotice_sdo (p : Nat) (x : Option Notice) : (s.setNotice p x).sdo = s.sdo := rfl
@[simp] theorem setNotice_bus (p : Nat) (x : Option Notice) : (s.setNotice p x).bus = s.bus := rfl
@[simp] theorem setNotice_moments (p : Nat) (x : Option Notice) : (s.setNotice p x).moments = s.moments := rfl
@[simp] theorem setNotice_freeDraws (p : Nat) (x : Option Notice) : (s.setNotice p x).freeDraws = s.freeDraws := rfl
@[simp] theorem setNotice_pending (p : Nat) (x : Option Notice) : (s.setNotice p x).pending = s.pending := rfl

/-! ## The fields an update writes -/
@[simp] theorem emit_outbound (m : Msg) : (s.emit m).outbound = s.outbound ++ [m] := rfl
@[simp] theorem note_moments (p : Nat) : (s.note p).moments = s.moments ++ [⟨p, positionImage p s, none⟩] := rfl
@[simp] theorem tone_moments (p : Nat) (x : Tone) : (s.tone p x).moments = s.moments ++ [⟨p, positionImage p s, some x⟩] := rfl

end Sys2Proof.Machine
end

