-- ==== Sys2Proof/Laws/Tab.lean ====
section
/-! SUPPORT. The laws of the tables: what is read after a write, and that every operation keeps the canonical form. -/

namespace Sys2Proof.Machine

variable {α : Type} (d : Nat → α)

@[simp] theorem tab_get_nil (k : Nat) : Tab.get d [] k = d k := rfl

theorem tab_get_cons (e : Nat × α) (t : Tab α) (k : Nat) :
    Tab.get d (e :: t) k = if e.1 = k then e.2 else Tab.get d t k := by
  unfold Tab.get
  by_cases h : e.1 = k <;> simp [h]

theorem tab_get_append (a b : Tab α) (k : Nat) :
    Tab.get d (a ++ b) k = if (a.find? (fun e => e.1 == k)).isSome then Tab.get d a k else Tab.get d b k := by
  unfold Tab.get
  rw [List.find?_append]
  cases a.find? (fun e => e.1 == k) <;> simp

theorem tab_find_filter_pos (q : Nat → Bool) (t : Tab α) (k : Nat) (h : q k = true) :
    (t.filter (fun e => q e.1)).find? (fun e => e.1 == k) = t.find? (fun e => e.1 == k) := by
  rw [List.find?_filter]
  congr 1
  funext e
  by_cases he : e.1 = k
  · simp [he, h]
  · simp [he]

theorem tab_find_filter_neg (q : Nat → Bool) (t : Tab α) (k : Nat) (h : q k = false) :
    (t.filter (fun e => q e.1)).find? (fun e => e.1 == k) = none := by
  rw [List.find?_eq_none]
  intro e he
  have := (List.mem_filter.1 he).2
  intro hk
  have : e.1 = k := by simpa using hk
  simp_all

/-- What a table reads after a write, whatever the table. -/
theorem tab_get_put [DecidableEq α] (t : Tab α) (k : Nat) (v : α) (j : Nat) :
    Tab.get d (Tab.put d t k v) j = if j = k then v else Tab.get d t j := by
  have lt := tab_find_filter_pos (fun x => decide (x < k)) t j
  have nlt := tab_find_filter_neg (fun x => decide (x < k)) t j
  have gt := tab_find_filter_pos (fun x => decide (k < x)) t j
  have ngt := tab_find_filter_neg (fun x => decide (k < x)) t j
  unfold Tab.get Tab.put
  rw [List.find?_append, List.find?_append]
  rcases Nat.lt_trichotomy j k with h | h | h
  · rw [lt (by simpa using h), ngt (by simp; omega)]
    have hm : (if v = d k then [] else [(k, v)] : Tab α).find? (fun e => e.1 == j) = none := by
      split <;> simp; omega
    rw [hm, if_neg (by omega : ¬ j = k)]
    simp
  · subst h
    rw [nlt (by simp), ngt (by simp)]
    by_cases hv : v = d j <;> simp [hv]
  · rw [nlt (by simp; omega), gt (by simpa using h)]
    have hm : (if v = d k then [] else [(k, v)] : Tab α).find? (fun e => e.1 == j) = none := by
      split <;> simp; omega
    rw [hm, if_neg (by omega : ¬ j = k)]
    simp

@[simp] theorem tab_get_put_self [DecidableEq α] (t : Tab α) (k : Nat) (v : α) : Tab.get d (Tab.put d t k v) k = v := by
  simp [tab_get_put]

/-- A write keeps the canonical form. -/
theorem tab_put_wf [DecidableEq α] (t : Tab α) (k : Nat) (v : α) (h : Tab.wf d t) : Tab.wf d (Tab.put d t k v) := by
  obtain ⟨hs, hv⟩ := h
  constructor
  · unfold Tab.put
    rw [List.append_assoc, List.pairwise_append]
    refine ⟨hs.filter _, ?_, ?_⟩
    · rw [List.pairwise_append]
      refine ⟨by split <;> simp, hs.filter _, ?_⟩
      intro a ha b hb
      have hb' := (List.mem_filter.1 hb).2
      split at ha <;> simp_all
    · intro a ha b hb
      have ha' := (List.mem_filter.1 ha).2
      rcases List.mem_append.1 hb with hb | hb
      · split at hb <;> simp_all
      · have hb' := (List.mem_filter.1 hb).2
        simp at ha' hb'
        omega
  · intro e he
    unfold Tab.put at he
    rcases List.mem_append.1 he with he | he
    · rcases List.mem_append.1 he with he | he
      · exact hv e (List.mem_filter.1 he).1
      · split at he <;> simp_all
    · exact hv e (List.mem_filter.1 he).1

/-- The entry under each key after `f` on every entry. -/
theorem tab_get_mapVals [DecidableEq α] (f : α → α) (t : Tab α) (k : Nat) (hf : f (d k) = d k) :
    Tab.get d (Tab.mapVals d f t) k = f (Tab.get d t k) := by
  induction t with
  | nil => simp [Tab.mapVals, hf]
  | cons e t ih =>
    have : Tab.mapVals d f (e :: t) = Tab.put d (Tab.mapVals d f t) e.1 (f e.2) := rfl
    rw [this, tab_get_put, tab_get_cons, ih]
    by_cases h : e.1 = k
    · simp [h]
    · rw [if_neg h, if_neg (fun hk => h hk.symm)]

/-- `f` on every entry gives the canonical form. -/
theorem tab_mapVals_wf [DecidableEq α] (f : α → α) (t : Tab α) : Tab.wf d (Tab.mapVals d f t) := by
  induction t with
  | nil => exact ⟨List.Pairwise.nil, by simp [Tab.mapVals]⟩
  | cons e t ih => exact tab_put_wf d _ _ _ ih

end Sys2Proof.Machine
end

