-- ==== Sys2Proof/Laws/Ops.lean ====
section
/-! SUPPORT. What each accessor reads after each update. -/

namespace Sys2Proof.Machine

variable (s : State)

/-! ## Accessors of another table -/

@[simp] theorem group_setSlot (n : Nat) (v : Slot) (g : Nat) : (s.setSlot n v).group g = s.group g := by
  simp only [State.group, setSlot_groups]
@[simp] theorem cls_setSlot (n : Nat) (v : Slot) (c : Nat) : (s.setSlot n v).cls c = s.cls c := by
  simp only [State.cls, setSlot_classes]
@[simp] theorem pos_setSlot (n : Nat) (v : Slot) (q : Nat) : (s.setSlot n v).pos q = s.pos q := by
  simp only [State.pos, setSlot_positions]
@[simp] theorem station_setSlot (n : Nat) (v : Slot) (st : Nat) : (s.setSlot n v).station st = s.station st := by
  simp only [State.station, setSlot_stations]
@[simp] theorem huntRange_setSlot (n : Nat) (v : Slot) (h : Nat) : (s.setSlot n v).huntRange h = s.huntRange h := by
  simp only [State.huntRange, setSlot_hunts]
@[simp] theorem slot_modGroup (i : Nat) (f : GroupRecord → GroupRecord) (m : Nat) : (s.modGroup i f).slot m = s.slot m := by
  simp only [State.slot, modGroup_slots]
@[simp] theorem cls_modGroup (i : Nat) (f : GroupRecord → GroupRecord) (c : Nat) : (s.modGroup i f).cls c = s.cls c := by
  simp only [State.cls, modGroup_classes]
@[simp] theorem pos_modGroup (i : Nat) (f : GroupRecord → GroupRecord) (q : Nat) : (s.modGroup i f).pos q = s.pos q := by
  simp only [State.pos, modGroup_positions]
@[simp] theorem station_modGroup (i : Nat) (f : GroupRecord → GroupRecord) (st : Nat) : (s.modGroup i f).station st = s.station st := by
  simp only [State.station, modGroup_stations]
@[simp] theorem huntRange_modGroup (i : Nat) (f : GroupRecord → GroupRecord) (h : Nat) : (s.modGroup i f).huntRange h = s.huntRange h := by
  simp only [State.huntRange, modGroup_hunts]
@[simp] theorem call_modGroup (i : Nat) (f : GroupRecord → GroupRecord) (r : Nat) : (s.modGroup i f).call r = s.call r := by
  simp only [State.call, State.slot, modGroup_slots]
@[simp] theorem slot_setCls (n : Nat) (v : ClassEntry) (m : Nat) : (s.setCls n v).slot m = s.slot m := by
  simp only [State.slot, setCls_slots]
@[simp] theorem group_setCls (n : Nat) (v : ClassEntry) (g : Nat) : (s.setCls n v).group g = s.group g := by
  simp only [State.group, setCls_groups]
@[simp] theorem pos_setCls (n : Nat) (v : ClassEntry) (q : Nat) : (s.setCls n v).pos q = s.pos q := by
  simp only [State.pos, setCls_positions]
@[simp] theorem station_setCls (n : Nat) (v : ClassEntry) (st : Nat) : (s.setCls n v).station st = s.station st := by
  simp only [State.station, setCls_stations]
@[simp] theorem huntRange_setCls (n : Nat) (v : ClassEntry) (h : Nat) : (s.setCls n v).huntRange h = s.huntRange h := by
  simp only [State.huntRange, setCls_hunts]
@[simp] theorem call_setCls (n : Nat) (v : ClassEntry) (r : Nat) : (s.setCls n v).call r = s.call r := by
  simp only [State.call, State.slot, setCls_slots]
@[simp] theorem slot_modPos (p : Nat) (f : Position → Position) (m : Nat) : (s.modPos p f).slot m = s.slot m := by
  simp only [State.slot, modPos_slots]
@[simp] theorem group_modPos (p : Nat) (f : Position → Position) (g : Nat) : (s.modPos p f).group g = s.group g := by
  simp only [State.group, modPos_groups]
@[simp] theorem cls_modPos (p : Nat) (f : Position → Position) (c : Nat) : (s.modPos p f).cls c = s.cls c := by
  simp only [State.cls, modPos_classes]
@[simp] theorem station_modPos (p : Nat) (f : Position → Position) (st : Nat) : (s.modPos p f).station st = s.station st := by
  simp only [State.station, modPos_stations]
@[simp] theorem huntRange_modPos (p : Nat) (f : Position → Position) (h : Nat) : (s.modPos p f).huntRange h = s.huntRange h := by
  simp only [State.huntRange, modPos_hunts]
@[simp] theorem call_modPos (p : Nat) (f : Position → Position) (r : Nat) : (s.modPos p f).call r = s.call r := by
  simp only [State.call, State.slot, modPos_slots]
@[simp] theorem slot_modStation (n : Nat) (f : Station → Station) (m : Nat) : (s.modStation n f).slot m = s.slot m := by
  simp only [State.slot, modStation_slots]
@[simp] theorem group_modStation (n : Nat) (f : Station → Station) (g : Nat) : (s.modStation n f).group g = s.group g := by
  simp only [State.group, modStation_groups]
@[simp] theorem cls_modStation (n : Nat) (f : Station → Station) (c : Nat) : (s.modStation n f).cls c = s.cls c := by
  simp only [State.cls, modStation_classes]
@[simp] theorem pos_modStation (n : Nat) (f : Station → Station) (q : Nat) : (s.modStation n f).pos q = s.pos q := by
  simp only [State.pos, modStation_positions]
@[simp] theorem huntRange_modStation (n : Nat) (f : Station → Station) (h : Nat) : (s.modStation n f).huntRange h = s.huntRange h := by
  simp only [State.huntRange, modStation_hunts]
@[simp] theorem call_modStation (n : Nat) (f : Station → Station) (r : Nat) : (s.modStation n f).call r = s.call r := by
  simp only [State.call, State.slot, modStation_slots]
@[simp] theorem slot_setHunt (n : Nat) (v : Option HuntRange) (m : Nat) : (s.setHunt n v).slot m = s.slot m := by
  simp only [State.slot, setHunt_slots]
@[simp] theorem group_setHunt (n : Nat) (v : Option HuntRange) (g : Nat) : (s.setHunt n v).group g = s.group g := by
  simp only [State.group, setHunt_groups]
@[simp] theorem cls_setHunt (n : Nat) (v : Option HuntRange) (c : Nat) : (s.setHunt n v).cls c = s.cls c := by
  simp only [State.cls, setHunt_classes]
@[simp] theorem pos_setHunt (n : Nat) (v : Option HuntRange) (q : Nat) : (s.setHunt n v).pos q = s.pos q := by
  simp only [State.pos, setHunt_positions]
@[simp] theorem station_setHunt (n : Nat) (v : Option HuntRange) (st : Nat) : (s.setHunt n v).station st = s.station st := by
  simp only [State.station, setHunt_stations]
@[simp] theorem call_setHunt (n : Nat) (v : Option HuntRange) (r : Nat) : (s.setHunt n v).call r = s.call r := by
  simp only [State.call, State.slot, setHunt_slots]
@[simp] theorem slot_mapPositions (f : Nat → Position → Position) (m : Nat) : (s.mapPositions f).slot m = s.slot m := by
  simp only [State.slot, mapPositions_slots]
@[simp] theorem group_mapPositions (f : Nat → Position → Position) (g : Nat) : (s.mapPositions f).group g = s.group g := by
  simp only [State.group, mapPositions_groups]
@[simp] theorem cls_mapPositions (f : Nat → Position → Position) (c : Nat) : (s.mapPositions f).cls c = s.cls c := by
  simp only [State.cls, mapPositions_classes]
@[simp] theorem station_mapPositions (f : Nat → Position → Position) (st : Nat) : (s.mapPositions f).station st = s.station st := by
  simp only [State.station, mapPositions_stations]
@[simp] theorem huntRange_mapPositions (f : Nat → Position → Position) (h : Nat) : (s.mapPositions f).huntRange h = s.huntRange h := by
  simp only [State.huntRange, mapPositions_hunts]
@[simp] theorem call_mapPositions (f : Nat → Position → Position) (r : Nat) : (s.mapPositions f).call r = s.call r := by
  simp only [State.call, State.slot, mapPositions_slots]
@[simp] theorem group_modCall (ref : Nat) (f : CallRecord → CallRecord) (g : Nat) : (s.modCall ref f).group g = s.group g := by
  simp only [State.group, modCall_groups]
@[simp] theorem cls_modCall (ref : Nat) (f : CallRecord → CallRecord) (c : Nat) : (s.modCall ref f).cls c = s.cls c := by
  simp only [State.cls, modCall_classes]
@[simp] theorem pos_modCall (ref : Nat) (f : CallRecord → CallRecord) (q : Nat) : (s.modCall ref f).pos q = s.pos q := by
  simp only [State.pos, modCall_positions]
@[simp] theorem station_modCall (ref : Nat) (f : CallRecord → CallRecord) (st : Nat) : (s.modCall ref f).station st = s.station st := by
  simp only [State.station, modCall_stations]
@[simp] theorem huntRange_modCall (ref : Nat) (f : CallRecord → CallRecord) (h : Nat) : (s.modCall ref f).huntRange h = s.huntRange h := by
  simp only [State.huntRange, modCall_hunts]
@[simp] theorem group_mapCalls (f : CallRecord → CallRecord) (g : Nat) : (s.mapCalls f).group g = s.group g := by
  simp only [State.group, mapCalls_groups]
@[simp] theorem cls_mapCalls (f : CallRecord → CallRecord) (c : Nat) : (s.mapCalls f).cls c = s.cls c := by
  simp only [State.cls, mapCalls_classes]
@[simp] theorem pos_mapCalls (f : CallRecord → CallRecord) (q : Nat) : (s.mapCalls f).pos q = s.pos q := by
  simp only [State.pos, mapCalls_positions]
@[simp] theorem station_mapCalls (f : CallRecord → CallRecord) (st : Nat) : (s.mapCalls f).station st = s.station st := by
  simp only [State.station, mapCalls_stations]
@[simp] theorem huntRange_mapCalls (f : CallRecord → CallRecord) (h : Nat) : (s.mapCalls f).huntRange h = s.huntRange h := by
  simp only [State.huntRange, mapCalls_hunts]
@[simp] theorem slot_emit (x : Msg) (m : Nat) : (s.emit x).slot m = s.slot m := by
  simp only [State.slot, emit_slots]
@[simp] theorem group_emit (m : Msg) (g : Nat) : (s.emit m).group g = s.group g := by
  simp only [State.group, emit_groups]
@[simp] theorem cls_emit (m : Msg) (c : Nat) : (s.emit m).cls c = s.cls c := by
  simp only [State.cls, emit_classes]
@[simp] theorem pos_emit (m : Msg) (q : Nat) : (s.emit m).pos q = s.pos q := by
  simp only [State.pos, emit_positions]
@[simp] theorem station_emit (m : Msg) (st : Nat) : (s.emit m).station st = s.station st := by
  simp only [State.station, emit_stations]
@[simp] theorem huntRange_emit (m : Msg) (h : Nat) : (s.emit m).huntRange h = s.huntRange h := by
  simp only [State.huntRange, emit_hunts]
@[simp] theorem call_emit (m : Msg) (r : Nat) : (s.emit m).call r = s.call r := by
  simp only [State.call, State.slot, emit_slots]
@[simp] theorem slot_note (p : Nat) (m : Nat) : (s.note p).slot m = s.slot m := by
  simp only [State.slot, note_slots]
@[simp] theorem group_note (p : Nat) (g : Nat) : (s.note p).group g = s.group g := by
  simp only [State.group, note_groups]
@[simp] theorem cls_note (p : Nat) (c : Nat) : (s.note p).cls c = s.cls c := by
  simp only [State.cls, note_classes]
@[simp] theorem pos_note (p : Nat) (q : Nat) : (s.note p).pos q = s.pos q := by
  simp only [State.pos, note_positions]
@[simp] theorem station_note (p : Nat) (st : Nat) : (s.note p).station st = s.station st := by
  simp only [State.station, note_stations]
@[simp] theorem huntRange_note (p : Nat) (h : Nat) : (s.note p).huntRange h = s.huntRange h := by
  simp only [State.huntRange, note_hunts]
@[simp] theorem call_note (p : Nat) (r : Nat) : (s.note p).call r = s.call r := by
  simp only [State.call, State.slot, note_slots]
@[simp] theorem slot_tone (p : Nat) (x : Tone) (m : Nat) : (s.tone p x).slot m = s.slot m := by
  simp only [State.slot, tone_slots]
@[simp] theorem group_tone (p : Nat) (x : Tone) (g : Nat) : (s.tone p x).group g = s.group g := by
  simp only [State.group, tone_groups]
@[simp] theorem cls_tone (p : Nat) (x : Tone) (c : Nat) : (s.tone p x).cls c = s.cls c := by
  simp only [State.cls, tone_classes]
@[simp] theorem pos_tone (p : Nat) (x : Tone) (q : Nat) : (s.tone p x).pos q = s.pos q := by
  simp only [State.pos, tone_positions]
@[simp] theorem station_tone (p : Nat) (x : Tone) (st : Nat) : (s.tone p x).station st = s.station st := by
  simp only [State.station, tone_stations]
@[simp] theorem huntRange_tone (p : Nat) (x : Tone) (h : Nat) : (s.tone p x).huntRange h = s.huntRange h := by
  simp only [State.huntRange, tone_hunts]
@[simp] theorem call_tone (p : Nat) (x : Tone) (r : Nat) : (s.tone p x).call r = s.call r := by
  simp only [State.call, State.slot, tone_slots]
@[simp] theorem slot_setNotice (p : Nat) (x : Option Notice) (m : Nat) : (s.setNotice p x).slot m = s.slot m := by
  simp only [State.slot, setNotice_slots]
@[simp] theorem group_setNotice (p : Nat) (x : Option Notice) (g : Nat) : (s.setNotice p x).group g = s.group g := by
  simp only [State.group, setNotice_groups]
@[simp] theorem cls_setNotice (p : Nat) (x : Option Notice) (c : Nat) : (s.setNotice p x).cls c = s.cls c := by
  simp only [State.cls, setNotice_classes]
@[simp] theorem station_setNotice (p : Nat) (x : Option Notice) (st : Nat) : (s.setNotice p x).station st = s.station st := by
  simp only [State.station, setNotice_stations]
@[simp] theorem huntRange_setNotice (p : Nat) (x : Option Notice) (h : Nat) : (s.setNotice p x).huntRange h = s.huntRange h := by
  simp only [State.huntRange, setNotice_hunts]
@[simp] theorem call_setNotice (p : Nat) (x : Option Notice) (r : Nat) : (s.setNotice p x).call r = s.call r := by
  simp only [State.call, State.slot, setNotice_slots]

/-! ## The entry written -/

theorem slot_setSlot (n : Nat) (v : Slot) (m : Nat) : (s.setSlot n v).slot m = if m = n then v else s.slot m :=
  tab_get_put _ _ _ _ _

theorem group_modGroup (i : Nat) (f : GroupRecord → GroupRecord) (g : Nat) :
    (s.modGroup i f).group g = if g = i then f (s.group i) else s.group g :=
  tab_get_put _ _ _ _ _

theorem cls_setCls (n : Nat) (v : ClassEntry) (c : Nat) : (s.setCls n v).cls c = if c = n then v else s.cls c :=
  tab_get_put _ _ _ _ _

theorem pos_modPos (p : Nat) (f : Position → Position) (q : Nat) :
    (s.modPos p f).pos q = if q = p then f (s.pos p) else s.pos q :=
  tab_get_put _ _ _ _ _

theorem station_modStation (n : Nat) (f : Station → Station) (st : Nat) :
    (s.modStation n f).station st = if st = n then f (s.station n) else s.station st :=
  tab_get_put _ _ _ _ _

theorem huntRange_setHunt (n : Nat) (v : Option HuntRange) (h : Nat) :
    (s.setHunt n v).huntRange h = if h = n then v else s.huntRange h :=
  tab_get_put _ _ _ _ _

theorem pos_setNotice (p : Nat) (x : Option Notice) (q : Nat) :
    (s.setNotice p x).pos q = if q = p then { s.pos p with notice := x } else s.pos q :=
  pos_modPos _ _ _ _

theorem slot_modCall (ref : Nat) (f : CallRecord → CallRecord) (m : Nat) :
    (s.modCall ref f).slot m = if m = slotOf ref then (s.slot m).mapCall f else s.slot m := by
  unfold State.modCall
  rw [slot_setSlot]
  by_cases h : m = slotOf ref
  · simp [h, Slot.mapCall, State.call]
  · simp [h]

/-- A call after a change of the call that `ref` names. -/
theorem call_modCall (ref : Nat) (f : CallRecord → CallRecord) (r : Nat) :
    (s.modCall ref f).call r = if slotOf r = slotOf ref then (s.call r).map f else s.call r := by
  unfold State.call
  rw [slot_modCall]
  by_cases h : slotOf r = slotOf ref <;> simp [h, Slot.mapCall]

@[simp] theorem call_modCall_self (ref : Nat) (f : CallRecord → CallRecord) :
    (s.modCall ref f).call ref = (s.call ref).map f := by
  simp [call_modCall]

theorem slot_mapCalls (f : CallRecord → CallRecord) (m : Nat) : (s.mapCalls f).slot m = (s.slot m).mapCall f :=
  tab_get_mapVals _ _ _ _ rfl

@[simp] theorem call_mapCalls (f : CallRecord → CallRecord) (r : Nat) : (s.mapCalls f).call r = (s.call r).map f := by
  simp [State.call, slot_mapCalls, Slot.mapCall]

theorem slot_retire (ref m : Nat) :
    (retire ref s).slot m = if m = slotOf ref then { s.slot m with call := none } else s.slot m := by
  unfold retire
  rw [slot_setSlot]
  by_cases h : m = slotOf ref <;> simp [h]

theorem call_retire (ref r : Nat) : (retire ref s).call r = if slotOf r = slotOf ref then none else s.call r := by
  unfold State.call
  rw [slot_retire]
  by_cases h : slotOf r = slotOf ref <;> simp [h]

/-! ## Every position at once -/

/-- The eight positions in turn. -/
theorem tab_get_foldl_put (f : Nat → Position → Position) (l : List Nat) (hl : l.Nodup) (t : Tab Position) (q : Nat) :
    Tab.get positionReset (l.foldl (fun t p => Tab.put positionReset t p (f p (Tab.get positionReset t p))) t) q
      = if q ∈ l then f q (Tab.get positionReset t q) else Tab.get positionReset t q := by
  induction l generalizing t with
  | nil => simp
  | cons p l ih =>
    obtain ⟨hp, hl⟩ := List.nodup_cons.1 hl
    rw [List.foldl_cons, ih hl, tab_get_put]
    by_cases h : q = p
    · subst h; simp [hp]
    · simp [h]

theorem pos_mapPositions (f : Nat → Position → Position) (q : Nat) :
    (s.mapPositions f).pos q = if q ∈ positionNumbers then f q (s.pos q) else s.pos q := by
  unfold State.pos State.mapPositions
  exact tab_get_foldl_put f _ (by decide) _ _

/-! ## Canonical forms -/

theorem slots_setSlot_wf (n : Nat) (v : Slot) (h : Tab.wf slotReset s.slots) : Tab.wf slotReset (s.setSlot n v).slots :=
  tab_put_wf _ _ _ _ h

theorem groups_modGroup_wf (i : Nat) (f : GroupRecord → GroupRecord) (h : Tab.wf groupReset s.groups) :
    Tab.wf groupReset (s.modGroup i f).groups :=
  tab_put_wf _ _ _ _ h

theorem classes_setCls_wf (n : Nat) (v : ClassEntry) (h : Tab.wf classReset s.classes) :
    Tab.wf classReset (s.setCls n v).classes :=
  tab_put_wf _ _ _ _ h

theorem positions_modPos_wf (p : Nat) (f : Position → Position) (h : Tab.wf positionReset s.positions) :
    Tab.wf positionReset (s.modPos p f).positions :=
  tab_put_wf _ _ _ _ h

theorem stations_modStation_wf (n : Nat) (f : Station → Station) (h : Tab.wf stationReset s.stations) :
    Tab.wf stationReset (s.modStation n f).stations :=
  tab_put_wf _ _ _ _ h

theorem hunts_setHunt_wf (n : Nat) (v : Option HuntRange) (h : Tab.wf huntReset s.hunts) :
    Tab.wf huntReset (s.setHunt n v).hunts :=
  tab_put_wf _ _ _ _ h

theorem slots_mapCalls_wf (f : CallRecord → CallRecord) : Tab.wf slotReset (s.mapCalls f).slots :=
  tab_mapVals_wf _ _ _

theorem loops_setLoop_wf (q : Position) (l : Nat) (r : Option Nat) (h : Tab.wf loopEmpty q.loops) :
    Tab.wf loopEmpty (q.setLoop l r).loops :=
  tab_put_wf _ _ _ _ h

theorem tab_foldl_put_wf (f : Nat → Position → Position) (l : List Nat) (t : Tab Position) (h : Tab.wf positionReset t) :
    Tab.wf positionReset
      (l.foldl (fun t p => Tab.put positionReset t p (f p (Tab.get positionReset t p))) t) := by
  induction l generalizing t with
  | nil => exact h
  | cons p l ih => exact ih _ (tab_put_wf _ _ _ _ h)

theorem positions_mapPositions_wf (f : Nat → Position → Position) (h : Tab.wf positionReset s.positions) :
    Tab.wf positionReset (s.mapPositions f).positions :=
  tab_foldl_put_wf f _ _ h

/-! ## Loops -/

theorem loopAt_setLoop (q : Position) (l : Nat) (r : Option Nat) (k : Nat) :
    (q.setLoop l r).loopAt k = if k = l then r else q.loopAt k :=
  tab_get_put _ _ _ _ _

end Sys2Proof.Machine
end

