-- ==== Sys2Proof/Laws/Event.lean ====
section
/-! SUPPORT. What the end of an event can do, and nothing else: console messages, the consequences of a changed talk loop,
and pairings called for. -/

namespace Sys2Proof.Machine

/-- A group in which a pairing may be called for. -/
def GroupRecord.marked (b : Bool) (r : GroupRecord) : GroupRecord :=
  { r with pairingDue := r.pairingDue || (b && r.offerMode == .offer) }

theorem group_markPairing (g : Nat) (s : State) (h : Nat) :
    (markPairing g s).group h = (s.group h).marked (h == g) := by
  unfold markPairing
  rw [group_modGroup]
  by_cases hg : h = g
  · subst hg
    by_cases ho : (s.group h).offerMode = .offer
    · simp [ho, GroupRecord.marked]
    · rw [if_pos rfl, if_neg ho, GroupRecord.marked, show ((s.group h).offerMode == OfferMode.offer) = false by simpa using ho]
      simp
  · rw [if_neg hg, GroupRecord.marked, show (h == g) = false by simpa using hg]
    simp

theorem foldl_mark_eq (b : Nat → Bool) (l : List Nat) (t : State) :
    l.foldl (fun t g => if b g then markPairing g t else t) t
      = { t with groups := (l.foldl (fun t g => if b g then markPairing g t else t) t).groups } := by
  induction l generalizing t with
  | nil => rfl
  | cons g l ih =>
    rw [List.foldl_cons, ih]
    by_cases h : b g
    · simp only [h, if_true, markPairing, State.modGroup]
    · simp only [h, Bool.false_eq_true, if_false]

theorem foldl_mark_group (b : Nat → Bool) (l : List Nat) (hl : l.Nodup) (t : State) (h : Nat) :
    (l.foldl (fun t g => if b g then markPairing g t else t) t).group h
      = (t.group h).marked (decide (h ∈ l) && b h) := by
  induction l generalizing t with
  | nil => simp [GroupRecord.marked]
  | cons g l ih =>
    obtain ⟨hg, hl⟩ := List.nodup_cons.1 hl
    rw [List.foldl_cons, ih hl]
    by_cases hb : b g
    · simp only [hb, if_true, group_markPairing]
      by_cases e : h = g
      · subst e; simp [GroupRecord.marked, hb, hg]
      · simp [GroupRecord.marked, e, show (h == g) = false by simpa using e]
    · simp only [hb, Bool.false_eq_true, if_false]
      by_cases e : h = g
      · subst e; simp [GroupRecord.marked, hb, hg]
      · simp [GroupRecord.marked, e]

/-- Only the pairing flags of the groups can change. -/
theorem reportOfferable_eq (before after : State) :
    reportOfferable before after = { after with groups := (reportOfferable before after).groups } :=
  foldl_mark_eq _ _ _

theorem reportOfferable_phase (before after : State) : (reportOfferable before after).phase = after.phase := by
  rw [reportOfferable_eq]
theorem reportOfferable_timeCount (before after : State) : (reportOfferable before after).timeCount = after.timeCount := by
  rw [reportOfferable_eq]
theorem reportOfferable_slots (before after : State) : (reportOfferable before after).slots = after.slots := by
  rw [reportOfferable_eq]
theorem reportOfferable_arrivalCounter (before after : State) : (reportOfferable before after).arrivalCounter = after.arrivalCounter := by
  rw [reportOfferable_eq]
theorem reportOfferable_classes (before after : State) : (reportOfferable before after).classes = after.classes := by
  rw [reportOfferable_eq]
theorem reportOfferable_ageShift (before after : State) : (reportOfferable before after).ageShift = after.ageShift := by
  rw [reportOfferable_eq]
theorem reportOfferable_bypassLimit (before after : State) : (reportOfferable before after).bypassLimit = after.bypassLimit := by
  rw [reportOfferable_eq]
theorem reportOfferable_recallLimit (before after : State) : (reportOfferable before after).recallLimit = after.recallLimit := by
  rw [reportOfferable_eq]
theorem reportOfferable_timers (before after : State) : (reportOfferable before after).timers = after.timers := by
  rw [reportOfferable_eq]
theorem reportOfferable_positions (before after : State) : (reportOfferable before after).positions = after.positions := by
  rw [reportOfferable_eq]
theorem reportOfferable_stations (before after : State) : (reportOfferable before after).stations = after.stations := by
  rw [reportOfferable_eq]
theorem reportOfferable_hunts (before after : State) : (reportOfferable before after).hunts = after.hunts := by
  rw [reportOfferable_eq]
theorem reportOfferable_outbound (before after : State) : (reportOfferable before after).outbound = after.outbound := by
  rw [reportOfferable_eq]
theorem reportOfferable_waiting (before after : State) : (reportOfferable before after).waiting = after.waiting := by
  rw [reportOfferable_eq]
theorem reportOfferable_locked (before after : State) : (reportOfferable before after).locked = after.locked := by
  rw [reportOfferable_eq]
theorem reportOfferable_discarded (before after : State) : (reportOfferable before after).discarded = after.discarded := by
  rw [reportOfferable_eq]
theorem reportOfferable_scan (before after : State) : (reportOfferable before after).scan = after.scan := by
  rw [reportOfferable_eq]
theorem reportOfferable_block (before after : State) : (reportOfferable before after).block = after.block := by
  rw [reportOfferable_eq]
theorem reportOfferable_toPoll (before after : State) : (reportOfferable before after).toPoll = after.toPoll := by
  rw [reportOfferable_eq]
theorem reportOfferable_exchange (before after : State) : (reportOfferable before after).exchange = after.exchange := by
  rw [reportOfferable_eq]
theorem reportOfferable_opened (before after : State) : (reportOfferable before after).opened = after.opened := by
  rw [reportOfferable_eq]
theorem reportOfferable_overlaps (before after : State) : (reportOfferable before after).overlaps = after.overlaps := by
  rw [reportOfferable_eq]
theorem reportOfferable_sdo (before after : State) : (reportOfferable before after).sdo = after.sdo := by
  rw [reportOfferable_eq]
theorem reportOfferable_bus (before after : State) : (reportOfferable before after).bus = after.bus := by
  rw [reportOfferable_eq]
theorem reportOfferable_freeDraws (before after : State) : (reportOfferable before after).freeDraws = after.freeDraws := by
  rw [reportOfferable_eq]
theorem reportOfferable_pending (before after : State) : (reportOfferable before after).pending = after.pending := by
  rw [reportOfferable_eq]

theorem group_reportOfferable (before after : State) (g : Nat) :
    (reportOfferable before after).group g
      = (after.group g).marked (decide (g ∈ groupNumbers) && newlyOfferable before after g) :=
  foldl_mark_group _ _ (by decide) _ _

@[simp] theorem pos_reportOfferable (before after : State) (p : Nat) :
    (reportOfferable before after).pos p = after.pos p := by
  simp only [State.pos, reportOfferable_positions]

/-- The state at the end of an event before its messages are placed. -/
def settled (before after : State) : State :=
  reportOfferable before (after.mapPositions (talkEffect before after.timeCount))

theorem endEvent_eq (before after : State) : endEvent before after = deliver before (settled before after) := rfl

theorem pos_deliver (before after : State) (p : Nat) :
    (deliver before after).pos p
      = (after.mapPositions (fun p => placeMsgs after p (eventMsgs before after p))).pos p := by
  simp only [State.pos, deliver]

/-- A position at the end of an event. -/
theorem pos_endEvent (before after : State) (p : Nat) (h : p ∈ positionNumbers) :
    (endEvent before after).pos p
      = placeMsgs (settled before after) p (eventMsgs before (settled before after) p)
          (talkEffect before after.timeCount p (after.pos p)) := by
  have hs : (settled before after).pos p = talkEffect before after.timeCount p (after.pos p) := by
    rw [settled, pos_reportOfferable, pos_mapPositions, if_pos h]
  rw [endEvent_eq, pos_deliver, pos_mapPositions, if_pos h, hs]

/-- A number of no position is left alone. -/
theorem pos_endEvent_other (before after : State) (p : Nat) (h : p ∉ positionNumbers) :
    (endEvent before after).pos p = after.pos p := by
  rw [endEvent_eq, pos_deliver, pos_mapPositions, if_neg h]
  unfold settled
  rw [pos_reportOfferable, pos_mapPositions, if_neg h]

/-- Placing messages changes the output buffer only. -/
theorem placeMsgs_eq (s : State) (p : Nat) (msgs : List ConMsg) (q : Position) :
    placeMsgs s p msgs q = { q with buffer := (placeMsgs s p msgs q).buffer } := by
  unfold placeMsgs refreshed
  split <;> (try split) <;> rfl

/-- A position whose talk loop the event leaves as it was changes in its output buffer only. -/
theorem pos_endEvent_same (before after : State) (p : Nat) (h : (after.pos p).talkLoop = (before.pos p).talkLoop) :
    (endEvent before after).pos p = { after.pos p with buffer := ((endEvent before after).pos p).buffer } := by
  by_cases hp : p ∈ positionNumbers
  · rw [pos_endEvent _ _ _ hp]
    have : talkEffect before after.timeCount p (after.pos p) = after.pos p := by simp [talkEffect, h]
    rw [this]
    exact placeMsgs_eq _ _ _ _
  · rw [pos_endEvent_other _ _ _ hp]

/-- Any position at the end of an event: its output buffer, and what a changed talk loop brings (R55). -/
theorem pos_endEvent_any (before after : State) (p : Nat) (hp : p ∈ positionNumbers) :
    (endEvent before after).pos p
      = { talkEffect before after.timeCount p (after.pos p) with buffer := ((endEvent before after).pos p).buffer } := by
  rw [pos_endEvent _ _ _ hp]
  exact placeMsgs_eq _ _ _ _

/-- A group at the end of an event: only a pairing may have been called for (R56). -/
theorem group_endEvent (before after : State) (g : Nat) :
    (endEvent before after).group g = { after.group g with pairingDue := ((endEvent before after).group g).pairingDue } := by
  have h : (endEvent before after).group g = (settled before after).group g := by
    simp only [State.group, endEvent_eq, deliver, mapPositions_groups]
  rw [h, settled, group_reportOfferable, group_mapPositions]
  simp only [GroupRecord.marked]

@[simp] theorem endEvent_moments (before after : State) : (endEvent before after).moments = [] := by
  simp only [endEvent, deliver]

@[simp] theorem endEvent_phase (before after : State) : (endEvent before after).phase = after.phase := by
  simp only [endEvent_eq, deliver, mapPositions_phase, settled, reportOfferable_phase]

@[simp] theorem endEvent_timeCount (before after : State) : (endEvent before after).timeCount = after.timeCount := by
  simp only [endEvent_eq, deliver, mapPositions_timeCount, settled, reportOfferable_timeCount]

@[simp] theorem endEvent_slots (before after : State) : (endEvent before after).slots = after.slots := by
  simp only [endEvent_eq, deliver, mapPositions_slots, settled, reportOfferable_slots]

@[simp] theorem endEvent_arrivalCounter (before after : State) : (endEvent before after).arrivalCounter = after.arrivalCounter := by
  simp only [endEvent_eq, deliver, mapPositions_arrivalCounter, settled, reportOfferable_arrivalCounter]

@[simp] theorem endEvent_classes (before after : State) : (endEvent before after).classes = after.classes := by
  simp only [endEvent_eq, deliver, mapPositions_classes, settled, reportOfferable_classes]

@[simp] theorem endEvent_ageShift (before after : State) : (endEvent before after).ageShift = after.ageShift := by
  simp only [endEvent_eq, deliver, mapPositions_ageShift, settled, reportOfferable_ageShift]

@[simp] theorem endEvent_bypassLimit (before after : State) : (endEvent before after).bypassLimit = after.bypassLimit := by
  simp only [endEvent_eq, deliver, mapPositions_bypassLimit, settled, reportOfferable_bypassLimit]

@[simp] theorem endEvent_recallLimit (before after : State) : (endEvent before after).recallLimit = after.recallLimit := by
  simp only [endEvent_eq, deliver, mapPositions_recallLimit, settled, reportOfferable_recallLimit]

@[simp] theorem endEvent_timers (before after : State) : (endEvent before after).timers = after.timers := by
  simp only [endEvent_eq, deliver, mapPositions_timers, settled, reportOfferable_timers]

@[simp] theorem endEvent_stations (before after : State) : (endEvent before after).stations = after.stations := by
  simp only [endEvent_eq, deliver, mapPositions_stations, settled, reportOfferable_stations]

@[simp] theorem endEvent_hunts (before after : State) : (endEvent before after).hunts = after.hunts := by
  simp only [endEvent_eq, deliver, mapPositions_hunts, settled, reportOfferable_hunts]

@[simp] theorem endEvent_outbound (before after : State) : (endEvent before after).outbound = after.outbound := by
  simp only [endEvent_eq, deliver, mapPositions_outbound, settled, reportOfferable_outbound]

@[simp] theorem endEvent_waiting (before after : State) : (endEvent before after).waiting = after.waiting := by
  simp only [endEvent_eq, deliver, mapPositions_waiting, settled, reportOfferable_waiting]

@[simp] theorem endEvent_locked (before after : State) : (endEvent before after).locked = after.locked := by
  simp only [endEvent_eq, deliver, mapPositions_locked, settled, reportOfferable_locked]

@[simp] theorem endEvent_discarded (before after : State) : (endEvent before after).discarded = after.discarded := by
  simp only [endEvent_eq, deliver, mapPositions_discarded, settled, reportOfferable_discarded]

@[simp] theorem endEvent_scan (before after : State) : (endEvent before after).scan = after.scan := by
  simp only [endEvent_eq, deliver, mapPositions_scan, settled, reportOfferable_scan]

@[simp] theorem endEvent_block (before after : State) : (endEvent before after).block = after.block := by
  simp only [endEvent_eq, deliver, mapPositions_block, settled, reportOfferable_block]

@[simp] theorem endEvent_toPoll (before after : State) : (endEvent before after).toPoll = after.toPoll := by
  simp only [endEvent_eq, deliver, mapPositions_toPoll, settled, reportOfferable_toPoll]

@[simp] theorem endEvent_exchange (before after : State) : (endEvent before after).exchange = after.exchange := by
  simp only [endEvent_eq, deliver, mapPositions_exchange, settled, reportOfferable_exchange]

@[simp] theorem endEvent_opened (before after : State) : (endEvent before after).opened = after.opened := by
  simp only [endEvent_eq, deliver, mapPositions_opened, settled, reportOfferable_opened]

@[simp] theorem endEvent_overlaps (before after : State) : (endEvent before after).overlaps = after.overlaps := by
  simp only [endEvent_eq, deliver, mapPositions_overlaps, settled, reportOfferable_overlaps]

@[simp] theorem endEvent_sdo (before after : State) : (endEvent before after).sdo = after.sdo := by
  simp only [endEvent_eq, deliver, mapPositions_sdo, settled, reportOfferable_sdo]

@[simp] theorem endEvent_bus (before after : State) : (endEvent before after).bus = after.bus := by
  simp only [endEvent_eq, deliver, mapPositions_bus, settled, reportOfferable_bus]

@[simp] theorem endEvent_freeDraws (before after : State) : (endEvent before after).freeDraws = after.freeDraws := by
  simp only [endEvent_eq, deliver, mapPositions_freeDraws, settled, reportOfferable_freeDraws]

@[simp] theorem endEvent_pending (before after : State) : (endEvent before after).pending = after.pending := by
  simp only [endEvent_eq, deliver, mapPositions_pending, settled, reportOfferable_pending]

@[simp] theorem slot_endEvent (before after : State) (n : Nat) : (endEvent before after).slot n = after.slot n := by
  simp only [State.slot, endEvent_slots]

@[simp] theorem call_endEvent (before after : State) (r : Nat) : (endEvent before after).call r = after.call r := by
  simp only [State.call, State.slot, endEvent_slots]

@[simp] theorem cls_endEvent (before after : State) (c : Nat) : (endEvent before after).cls c = after.cls c := by
  simp only [State.cls, endEvent_classes]

@[simp] theorem station_endEvent (before after : State) (st : Nat) : (endEvent before after).station st = after.station st := by
  simp only [State.station, endEvent_stations]

@[simp] theorem huntRange_endEvent (before after : State) (h : Nat) : (endEvent before after).huntRange h = after.huntRange h := by
  simp only [State.huntRange, endEvent_hunts]

end Sys2Proof.Machine
end

