-- ==== Sys2Proof/Laws/Calls.lean ====
section
/-! SUPPORT. What the shared operations on calls can do. Each of them keeps every register of the state but the seven that
hold calls and messages (`CallsOnly`); the operations with a branch have one lemma that lists their outcomes. -/

namespace Sys2Proof.Machine

/-! ## The registers that an operation on calls leaves as they are -/

/-- Nothing but the slots, the arrival sequence counter, the groups, the positions, the stations, the outbound queue and the
moments of the event has changed. -/
def CallsOnly (s t : State) : Prop :=
  t = { s with slots := t.slots, arrivalCounter := t.arrivalCounter, groups := t.groups, positions := t.positions,
               stations := t.stations, outbound := t.outbound, moments := t.moments }

theorem CallsOnly.refl (s : State) : CallsOnly s s := rfl

theorem CallsOnly.trans {s t u : State} (h : CallsOnly s t) (k : CallsOnly t u) : CallsOnly s u := by
  unfold CallsOnly at *
  rw [k, h]

variable {s t : State}

/-- An update of one of the seven registers, after an operation on calls. -/
theorem CallsOnly.modCall (h : CallsOnly s t) (ref : Nat) (f : CallRecord → CallRecord) : CallsOnly s (t.modCall ref f) :=
  h.trans rfl
theorem CallsOnly.mapCalls (h : CallsOnly s t) (f : CallRecord → CallRecord) : CallsOnly s (t.mapCalls f) := h.trans rfl
theorem CallsOnly.modGroup (h : CallsOnly s t) (g : Nat) (f : GroupRecord → GroupRecord) : CallsOnly s (t.modGroup g f) :=
  h.trans rfl
theorem CallsOnly.modPos (h : CallsOnly s t) (p : Nat) (f : Position → Position) : CallsOnly s (t.modPos p f) := h.trans rfl
theorem CallsOnly.modStation (h : CallsOnly s t) (n : Nat) (f : Station → Station) : CallsOnly s (t.modStation n f) :=
  h.trans rfl
theorem CallsOnly.emit (h : CallsOnly s t) (m : Msg) : CallsOnly s (t.emit m) := h.trans rfl
theorem CallsOnly.note (h : CallsOnly s t) (p : Nat) : CallsOnly s (t.note p) := h.trans rfl
theorem CallsOnly.tone (h : CallsOnly s t) (p : Nat) (x : Tone) : CallsOnly s (t.tone p x) := h.trans rfl
theorem CallsOnly.setNotice (h : CallsOnly s t) (p : Nat) (n : Option Notice) : CallsOnly s (t.setNotice p n) := h.trans rfl
theorem CallsOnly.retire (h : CallsOnly s t) (ref : Nat) : CallsOnly s (retire ref t) := h.trans rfl

/-- The fields that stay. -/
theorem CallsOnly.fields (h : CallsOnly s t) :
    t.phase = s.phase ∧ t.timeCount = s.timeCount ∧ t.classes = s.classes ∧ t.ageShift = s.ageShift ∧
      t.bypassLimit = s.bypassLimit ∧ t.recallLimit = s.recallLimit ∧ t.timers = s.timers ∧ t.hunts = s.hunts ∧
      t.waiting = s.waiting ∧ t.locked = s.locked ∧ t.discarded = s.discarded ∧ t.scan = s.scan ∧ t.block = s.block ∧
      t.toPoll = s.toPoll ∧ t.exchange = s.exchange ∧ t.opened = s.opened ∧ t.overlaps = s.overlaps ∧ t.sdo = s.sdo ∧
      t.bus = s.bus ∧ t.freeDraws = s.freeDraws ∧ t.pending = s.pending := by
  unfold CallsOnly at h
  rw [h]
  exact ⟨rfl, rfl, rfl, rfl, rfl, rfl, rfl, rfl, rfl, rfl, rfl, rfl, rfl, rfl, rfl, rfl, rfl, rfl, rfl, rfl, rfl⟩

/-! ## Queues -/

theorem markPairing_frame (g : Nat) (s : State) : CallsOnly s (markPairing g s) := rfl
theorem dequeue_frame (g ref : Nat) (s : State) : CallsOnly s (dequeue g ref s) := rfl
theorem takeChosen_frame (g : Nat) (c : CallRecord) (s : State) : CallsOnly s (takeChosen g c s) := rfl

theorem settleSweep_frame (g : Nat) (s : State) : CallsOnly s (settleSweep g s) := by
  unfold settleSweep; split <;> rfl

theorem freshStamp_frame (ref : Nat) (s : State) : CallsOnly s (freshStamp ref s) := by
  unfold freshStamp makeSequence; split <;> rfl

theorem enqueueTail_frame (ref : Nat) (s : State) : CallsOnly s (enqueueTail ref s) := by
  unfold enqueueTail; split <;> rfl

theorem reinsert_frame (ref : Nat) (s : State) : CallsOnly s (reinsert ref s) := by
  unfold reinsert; split <;> rfl

/-- A group after a call has left its queue: the queue without it, and nothing else. -/
theorem group_dequeue (g ref : Nat) (s : State) (h : Nat) :
    (dequeue g ref s).group h
      = if h = g then { s.group g with queue := (s.group g).queue.filter (fun x => x ≠ ref) } else s.group h := by
  rw [dequeue, group_modGroup]

@[simp] theorem slot_dequeue (g ref : Nat) (s : State) (m : Nat) : (dequeue g ref s).slot m = s.slot m := by simp [dequeue]
@[simp] theorem pos_dequeue (g ref : Nat) (s : State) (p : Nat) : (dequeue g ref s).pos p = s.pos p := by simp [dequeue]
@[simp] theorem call_dequeue (g ref : Nat) (s : State) (r : Nat) : (dequeue g ref s).call r = s.call r := by
  simp [dequeue]

/-- A group after the sweep has settled: IDLE where no call of its queue is night-bound. -/
theorem group_settleSweep (g : Nat) (s : State) (h : Nat) :
    (settleSweep g s).group h
      = if h = g ∧ hasNightBound g s = false then { s.group g with sweep := .idle } else s.group h := by
  unfold settleSweep
  split <;> rename_i e
  · simp [e]
  · rw [group_modGroup]
    simp [e]

@[simp] theorem slot_settleSweep (g : Nat) (s : State) (m : Nat) : (settleSweep g s).slot m = s.slot m := by
  unfold settleSweep; split <;> simp
@[simp] theorem pos_settleSweep (g : Nat) (s : State) (p : Nat) : (settleSweep g s).pos p = s.pos p := by
  unfold settleSweep; split <;> simp
@[simp] theorem call_settleSweep (g : Nat) (s : State) (r : Nat) : (settleSweep g s).call r = s.call r := by
  unfold settleSweep; split <;> simp

/-- What an enqueue at the tail does to a live call (R31). -/
theorem enqueueTail_eq (ref : Nat) (s : State) (c : CallRecord) (h : s.call ref = some c) :
    enqueueTail ref s = markPairing c.group
      ((s.modCall ref (withQueueDeadline s)).modGroup c.group (fun r => { r with queue := r.queue ++ [ref] })) := by
  simp only [enqueueTail, h]

/-- What a reinsertion does to a live call (R32). -/
theorem reinsert_eq (ref : Nat) (s : State) (c : CallRecord) (h : s.call ref = some c) :
    reinsert ref s = markPairing c.group
      ((s.modCall ref (withQueueDeadline s)).modGroup c.group
        (fun r => { r with queue := insertBySeq s c.arrivalSeq ref r.queue })) := by
  simp only [reinsert, h]

/-- A reinsertion puts the reference in and changes no order of the others (R32). -/
theorem mem_insertBySeq (s : State) (seq ref : Nat) (queue : List Nat) (x : Nat) :
    x ∈ insertBySeq s seq ref queue ↔ x = ref ∨ x ∈ queue := by
  unfold insertBySeq
  conv_rhs => rw [← List.takeWhile_append_dropWhile (p := fun r => !seqAbove s seq r) (l := queue)]
  simp only [List.mem_append, List.mem_cons]
  tauto

/-- The record as it becomes QUEUED changes in its state, its deadline and its warning flag only (R153). -/
theorem withQueueDeadline_eq (s : State) (c : CallRecord) :
    withQueueDeadline s c = { c with
      state := .queued, deadline := (withQueueDeadline s c).deadline, warning := (withQueueDeadline s c).warning } := by
  unfold withQueueDeadline
  dsimp only
  split_ifs <;> rfl

/-! ## The best of a list -/

theorem bestBy_eq_none {α : Type} (better : α → α → Bool) (l : List α) : bestBy better l = none ↔ l = [] := by
  cases l with
  | nil => simp [bestBy]
  | cons a l =>
    simp only [bestBy]
    split
    · simp
    · split <;> simp

theorem bestBy_mem {α : Type} (better : α → α → Bool) (l : List α) (b : α) (h : bestBy better l = some b) : b ∈ l := by
  induction l generalizing b with
  | nil => simp [bestBy] at h
  | cons a l ih =>
    simp only [bestBy] at h
    split at h
    · cases h; exact List.mem_cons_self
    · rename_i c hc
      split at h
      · cases h; exact List.mem_cons_of_mem _ (ih _ hc)
      · cases h; exact List.mem_cons_self

/-- No element is better than the best, for an order whose negation is transitive. -/
theorem bestBy_best {α : Type} (better : α → α → Bool) (irrefl : ∀ a, better a a = false)
    (asymm : ∀ a b, better a b = true → better b a = false)
    (trans : ∀ a b c, better a b = false → better b c = false → better a c = false)
    (l : List α) (b : α) (h : bestBy better l = some b) : ∀ x ∈ l, better x b = false := by
  induction l generalizing b with
  | nil => simp
  | cons a l ih =>
    simp only [bestBy] at h
    split at h
    · rename_i hn
      cases h
      rw [(bestBy_eq_none _ _).1 hn]
      intro x hx
      rw [List.mem_singleton.1 hx]
      exact irrefl _
    · rename_i c hc
      split at h <;> rename_i hb <;> cases h
      · intro x hx
        rcases List.mem_cons.1 hx with rfl | hx
        · exact asymm _ _ hb
        · exact ih _ hc _ hx
      · intro x hx
        rcases List.mem_cons.1 hx with rfl | hx
        · exact irrefl _
        · exact trans _ _ _ (ih _ hc _ hx) (by simpa using hb)

/-! ## Loops and the talk path -/

theorem leaveLoop_frame (ref : Nat) (s : State) : CallsOnly s (leaveLoop ref s) := by
  unfold leaveLoop
  split
  · rfl
  · split <;> rfl

/-- What leaving a loop does: to a call on a loop of its home position. -/
theorem leaveLoop_eq (ref : Nat) (s : State) (c : CallRecord) (p l : Nat) (h : s.call ref = some c)
    (hp : c.home = some p) (hl : c.loop = some l) :
    leaveLoop ref s = (s.modPos p (fun q => q.clearLoop l)).modCall ref (fun c => { c with loop := none }) := by
  simp only [leaveLoop, h, hp, hl]

/-- A call on no loop leaves none. -/
theorem leaveLoop_none (ref : Nat) (s : State) (c : CallRecord) (h : s.call ref = some c) (hl : c.loop = none) :
    leaveLoop ref s = s := by
  simp only [leaveLoop, h, hl]
  cases c.home <;> rfl

theorem loopAt_clearLoop (q : Position) (l k : Nat) : (q.clearLoop l).loopAt k = if k = l then none else q.loopAt k :=
  loopAt_setLoop q l none k

theorem takeOntoTalkPath_frame (p ref l : Nat) (s : State) : CallsOnly s (takeOntoTalkPath p ref l s) := rfl
theorem holdCall_frame (p ref : Nat) (s : State) : CallsOnly s (holdCall p ref s) := rfl

/-- A call taken onto the talk path: the position, the record and the order (R69). -/
theorem takeOntoTalkPath_spec (p ref l : Nat) (s : State) :
    (∀ q, (takeOntoTalkPath p ref l s).pos q
      = if q = p then { (s.pos p).setLoop l (some ref) with talkLoop := some l, dialled := none } else s.pos q) ∧
      (takeOntoTalkPath p ref l s).call ref = (s.call ref).map (fun c =>
        { c with state := .talking, loop := some l, home := some p, talkSide := some .source, deadline := none,
                 divertFailed := false, warning := false }) ∧
      (∀ m, m ≠ slotOf ref → (takeOntoTalkPath p ref l s).slot m = s.slot m) ∧
      (∀ g, (takeOntoTalkPath p ref l s).group g = s.group g) ∧
      (takeOntoTalkPath p ref l s).outbound = s.outbound ++ [.attach ref p .source] := by
  refine ⟨fun q => ?_, ?_, fun m hm => ?_, fun g => ?_, rfl⟩ <;> unfold takeOntoTalkPath
  · simp [pos_modPos]
  · simp
  · simp [slot_modCall, hm]
  · simp

/-- A call put on hold: the position, the record and the order (R68, R73). -/
theorem holdCall_spec (p ref : Nat) (s : State) :
    (∀ q, (holdCall p ref s).pos q = if q = p then { s.pos p with talkLoop := none } else s.pos q) ∧
      (holdCall p ref s).call ref = (s.call ref).map (fun c =>
        { c with state := .held, talkSide := none, deadline := some ⟨.hold, s.timeCount, s.timers.hold⟩ }) ∧
      (∀ m, m ≠ slotOf ref → (holdCall p ref s).slot m = s.slot m) ∧
      (∀ g, (holdCall p ref s).group g = s.group g) ∧ (holdCall p ref s).outbound = s.outbound ++ [.hold ref] := by
  refine ⟨fun q => ?_, ?_, fun m hm => ?_, fun g => ?_, rfl⟩ <;> unfold holdCall
  · simp [pos_modPos]
  · simp [State.deadlineNow]
  · simp [slot_modCall, hm]
  · simp

theorem noticeHome_frame (c : CallRecord) (n : Notice) (s : State) : CallsOnly s (noticeHome c n s) := by
  unfold noticeHome; split <;> rfl

theorem attachSource_frame (c : CallRecord) (s : State) : CallsOnly s (attachSource c s) := by
  unfold attachSource; split <;> rfl

theorem returnToSource_frame (c : CallRecord) (s : State) : CallsOnly s (returnToSource c s) :=
  (attachSource_frame c s).modCall _ _

theorem blindRelease_frame (c : CallRecord) (s : State) : CallsOnly s (blindRelease c s) :=
  (leaveLoop_frame c.ref s).modCall _ _

theorem leaveAndRetire_frame (ref : Nat) (s : State) : CallsOnly s (leaveAndRetire ref s) := (leaveLoop_frame ref s).retire _

theorem bridgeCall_frame (c : CallRecord) (s : State) : CallsOnly s (bridgeCall c s) :=
  CallsOnly.trans (t := s.emit (.bridge c.ref)) (by rfl) (leaveAndRetire_frame _ _)

/-- A RELEASE of an EXTENDING call bridges, returns to the source or releases blind (R98, R99). -/
theorem releaseExtend_cases {c : CallRecord} {s t : State} (h : releaseExtend c s = some t) :
    (c.progress = some .answered ∧ t = bridgeCall c s) ∨ (c.progress = some .busy ∧ t = returnToSource c s) ∨
      (c.progress ≠ some .answered ∧ c.progress ≠ some .busy ∧ c.mode = .blind ∧ t = blindRelease c s) := by
  unfold releaseExtend at h
  split at h
  · exact .inl ⟨‹_›, by simpa using h.symm⟩
  · exact .inr (.inl ⟨‹_›, by simpa using h.symm⟩)
  · split at h
    · exact .inr (.inr ⟨‹_›, ‹_›, ‹_›, by simpa using h.symm⟩)
    · cases h

theorem releaseExtend_frame {c : CallRecord} {s t : State} (h : releaseExtend c s = some t) : CallsOnly s t := by
  obtain ⟨-, rfl⟩ | ⟨-, rfl⟩ | ⟨-, -, -, rfl⟩ := releaseExtend_cases h
  · exact bridgeCall_frame c s
  · exact returnToSource_frame c s
  · exact blindRelease_frame c s

/-- Clearing the talk path: an empty one stays; a call not EXTENDING is put on hold; an EXTENDING one is released, and a BUSY
one then put on hold (R68). -/
theorem clearTalkPath_cases {p : Nat} {s t : State} (h : clearTalkPath p s = some t) :
    (talkCall p s = none ∧ t = s) ∨
      ∃ c, talkCall p s = some c ∧
        ((c.state ≠ .extending ∧ t = holdCall p c.ref s) ∨
          (c.state = .extending ∧ ∃ u, releaseExtend c s = some u ∧
            t = if c.progress = some .busy then holdCall p c.ref u else u)) := by
  unfold clearTalkPath at h
  split at h
  · exact .inl ⟨‹_›, by simpa using h.symm⟩
  · rename_i c hc
    refine .inr ⟨c, hc, ?_⟩
    split at h
    · obtain ⟨u, hu, rfl⟩ := Option.map_eq_some_iff.1 h
      exact .inr ⟨‹_›, u, hu, rfl⟩
    · exact .inl ⟨‹_›, by simpa using h.symm⟩

theorem clearTalkPath_frame {p : Nat} {s t : State} (h : clearTalkPath p s = some t) : CallsOnly s t := by
  obtain ⟨-, rfl⟩ | ⟨c, -, ⟨-, rfl⟩ | ⟨-, u, hu, rfl⟩⟩ := clearTalkPath_cases h
  · rfl
  · rfl
  · split
    · exact (releaseExtend_frame hu).trans rfl
    · exact releaseExtend_frame hu

theorem ringOrCampers_frame (p : Nat) (c : CallRecord) (st : Nat) (s : State) : CallsOnly s (ringOrCampers p c st s) := by
  unfold ringOrCampers; split <;> rfl

theorem startExtend_frame (p : Nat) (c : CallRecord) (st : Nat) (m : Mode) (s : State) :
    CallsOnly s (startExtend p c st m s) := by
  unfold startExtend
  dsimp only
  refine CallsOnly.trans ?_ (ringOrCampers_frame _ _ _ _)
  refine CallsOnly.modCall (CallsOnly.modPos ?_ _ _) _ _
  split
  · exact returnToSource_frame c s
  · rfl

/-! ## Diverts and recalls -/

theorem makeDivert_frame (ref st : Nat) (x : DivertReason) (s : State) : CallsOnly s (makeDivert ref st x s) := rfl

/-- A divert: the record, the order, and nothing else (R148). -/
theorem makeDivert_spec (ref st : Nat) (x : DivertReason) (s : State) :
    (makeDivert ref st x s).call ref = (s.call ref).map (fun c =>
        { c with state := .diverting, deadline := none, nightBound := false, loop := none, talkSide := none,
                 progress := none, fromCamp := false }) ∧
      (∀ m, m ≠ slotOf ref → (makeDivert ref st x s).slot m = s.slot m) ∧
      (∀ g, (makeDivert ref st x s).group g = s.group g) ∧ (∀ p, (makeDivert ref st x s).pos p = s.pos p) ∧
      (∀ n, (makeDivert ref st x s).station n = s.station n) ∧
      (makeDivert ref st x s).outbound = s.outbound ++ [.divert ref st x] := by
  refine ⟨?_, fun m hm => ?_, fun g => ?_, fun p => ?_, fun n => ?_, rfl⟩ <;> unfold makeDivert
  · simp
  · simp [slot_modCall, hm]
  · simp
  · simp
  · simp

theorem divertQueued_frame (g ref st : Nat) (x : DivertReason) (s : State) : CallsOnly s (divertQueued g ref st x s) :=
  ((dequeue_frame g ref s).trans (settleSweep_frame _ _)).trans (makeDivert_frame _ _ _ _)

/-- A call with its stamp is diverted with reason NIGHT or queued at the tail (R10, R161). -/
theorem placeFresh_cases (ref : Nat) (s : State) (c : CallRecord) (h : s.call ref = some c) :
    (∃ st, nightTakes c.group c s = some st ∧ placeFresh ref s = makeDivert ref st .night s) ∨
      (nightTakes c.group c s = none ∧ placeFresh ref s = enqueueTail ref s) := by
  simp only [placeFresh, h]
  cases nightTakes c.group c s with
  | none => exact .inr ⟨rfl, rfl⟩
  | some st => exact .inl ⟨st, rfl, rfl⟩

theorem placeFresh_frame (ref : Nat) (s : State) : CallsOnly s (placeFresh ref s) := by
  unfold placeFresh
  split
  · rfl
  · split
    · rfl
    · exact enqueueTail_frame ref s

theorem stage2_frame (ref : Nat) (s : State) : CallsOnly s (stage2 ref s) :=
  CallsOnly.trans (CallsOnly.trans (by rfl) (freshStamp_frame _ _)) (placeFresh_frame _ _)

theorem landRecall_frame (ref p l : Nat) (s : State) : CallsOnly s (landRecall ref p l s) := rfl

/-- A recall that lands: the position, the record and the tone (R162, R163). -/
theorem landRecall_spec (ref p l : Nat) (s : State) :
    (∀ q, (landRecall ref p l s).pos q = if q = p then (s.pos p).setLoop l (some ref) else s.pos q) ∧
      (landRecall ref p l s).call ref = (s.call ref).map (fun c =>
        { c with state := .recalling, loop := some l, deadline := some ⟨.recallRing, s.timeCount, s.timers.recallRing⟩ }) ∧
      (∀ m, m ≠ slotOf ref → (landRecall ref p l s).slot m = s.slot m) ∧
      (∀ g, (landRecall ref p l s).group g = s.group g) ∧ (landRecall ref p l s).outbound = s.outbound ∧
      (landRecall ref p l s).moments = s.moments ++ [⟨p, positionImage p (landRecall ref p l s), some .notice⟩] := by
  refine ⟨fun q => ?_, ?_, fun m hm => ?_, fun g => ?_, rfl, rfl⟩ <;> unfold landRecall
  · simp [pos_modPos]
  · simp [State.deadlineNow]
  · simp [slot_modCall, hm]
  · simp

theorem routeRecall_frame (ref : Nat) (s : State) : CallsOnly s (routeRecall ref s) := by
  unfold routeRecall
  split
  · rfl
  · split
    · rfl
    · exact stage2_frame ref s

theorem recallInPlace_frame (ref : Nat) (s : State) : CallsOnly s (recallInPlace ref s) := by
  unfold recallInPlace; split <;> rfl

/-- A recall: a divert at the limit; a HELD call on its loop is recalled there; any other call is routed (R158 to R163). -/
theorem takeRecall_cases (ref : Nat) (s : State) (c : CallRecord) (h : s.call ref = some c) :
    (∃ st, recallDiverts s (recallGroup s c) c = some st ∧
      takeRecall ref s = makeDivert ref st .recallLimit (leaveLoop ref (s.modCall ref (recallRecord s)))) ∨
      (recallDiverts s (recallGroup s c) c = none ∧ c.state = .held ∧ c.loop.isSome = true ∧
        takeRecall ref s = recallInPlace ref (s.modCall ref (recallRecord s))) ∨
      (recallDiverts s (recallGroup s c) c = none ∧ ¬(c.state = .held ∧ c.loop.isSome = true) ∧
        takeRecall ref s = routeRecall ref (s.modCall ref (recallRecord s))) := by
  simp only [takeRecall, h]
  cases recallDiverts s (recallGroup s c) c with
  | some st => exact .inl ⟨st, rfl, rfl⟩
  | none =>
    by_cases k : c.state = .held ∧ c.loop.isSome = true
    · exact .inr (.inl ⟨rfl, k.1, k.2, by simp [k]⟩)
    · exact .inr (.inr ⟨rfl, k, by simp [k]⟩)

theorem takeRecall_frame (ref : Nat) (s : State) : CallsOnly s (takeRecall ref s) := by
  cases h : s.call ref with
  | none => simp only [takeRecall, h]; rfl
  | some c =>
    obtain ⟨st, -, e⟩ | ⟨-, -, -, e⟩ | ⟨-, -, e⟩ := takeRecall_cases ref s c h <;> rw [e]
    · exact CallsOnly.trans (CallsOnly.trans (by rfl) (leaveLoop_frame _ _)) (makeDivert_frame _ _ _ _)
    · exact CallsOnly.trans (by rfl) (recallInPlace_frame _ _)
    · exact CallsOnly.trans (by rfl) (routeRecall_frame _ _)

/-! ## Camp-on -/

theorem campJoin_frame (ref : Nat) (s : State) : CallsOnly s (campJoin ref s) := by
  unfold campJoin; split <;> rfl

theorem startCampRing_frame (st : Nat) (s : State) : CallsOnly s (startCampRing st s) := by
  unfold startCampRing
  split
  · rfl
  · split <;> rfl

theorem leaveCampOn_frame (ref : Nat) (s : State) : CallsOnly s (leaveCampOn ref s) :=
  CallsOnly.trans (by rfl) (takeRecall_frame _ _)

theorem clearRing_frame (st : Nat) (s : State) : CallsOnly s (clearRing st s) := rfl
theorem leaveCampList_frame (st ref : Nat) (s : State) : CallsOnly s (leaveCampList st ref s) := rfl

theorem failCampRing_frame (ref : Nat) (s : State) : CallsOnly s (failCampRing ref s) := by
  unfold failCampRing
  split
  · rfl
  · exact CallsOnly.trans (by rfl) (leaveCampOn_frame _ _)

theorem returnCampRing_frame (ref : Nat) (s : State) : CallsOnly s (returnCampRing ref s) := by
  unfold returnCampRing
  split
  · rfl
  · dsimp only
    split
    · exact failCampRing_frame ref s
    · rfl

theorem foldl_leaveCampOn_frame (l : List Nat) (s : State) : CallsOnly s (l.foldl (fun t ref => leaveCampOn ref t) s) := by
  induction l generalizing s with
  | nil => rfl
  | cons r l ih => exact (leaveCampOn_frame r s).trans (ih _)

theorem recallCampList_frame (st : Nat) (s : State) : CallsOnly s (recallCampList st s) :=
  CallsOnly.trans (by rfl) (foldl_leaveCampOn_frame _ _)

theorem stationUpdate_frame (st : Nat) (new : StationState) (s : State) : CallsOnly s (stationUpdate st new s) := by
  unfold stationUpdate
  dsimp only
  split
  · split
    · rfl
    · exact CallsOnly.trans (by rfl) (startCampRing_frame _ _)
  · exact CallsOnly.trans (by rfl) (recallCampList_frame _ _)
  · exact CallsOnly.trans (by rfl) (recallCampList_frame _ _)
  · rfl
  · rfl

/-! ## Offers, night and day, leaving events -/

theorem makeOffer_frame (g p : Nat) (c : CallRecord) (s : State) : CallsOnly s (makeOffer g p c s) := rfl

theorem pairUp_frame (g n : Nat) (s : State) : CallsOnly s (pairUp g n s) := by
  induction n generalizing s with
  | zero => rfl
  | succ n ih =>
    unfold pairUp
    split
    · exact (makeOffer_frame _ _ _ _).trans (ih _)
    · rfl

theorem withdrawOffer_frame (p : Nat) (s : State) : CallsOnly s (withdrawOffer p s) := by
  unfold withdrawOffer
  split
  · rfl
  · exact CallsOnly.trans (by rfl) (reinsert_frame _ _)

theorem startSweep_frame (g : Nat) (s : State) : CallsOnly s (startSweep g s) := by
  unfold startSweep; split <;> rfl

theorem nightEntry_frame (g : Nat) (s : State) : CallsOnly s (nightEntry g s) := by
  unfold nightEntry
  dsimp only
  split
  · exact CallsOnly.trans (by rfl) (startSweep_frame _ _)
  · rfl

theorem nightIfUnstaffed_frame (g : Nat) (s : State) : CallsOnly s (nightIfUnstaffed g s) := by
  unfold nightIfUnstaffed
  split
  · rfl
  · exact nightEntry_frame g s

theorem clearMarks_frame (g : Nat) (s : State) : CallsOnly s (clearMarks g s) := rfl

theorem dayEntry_frame (g : Nat) (s : State) : CallsOnly s (dayEntry g s) := by
  unfold dayEntry; dsimp only; split <;> rfl

theorem leavingEvent_frame (p : Nat) (s : State) : CallsOnly s (leavingEvent p s) := by
  unfold leavingEvent
  dsimp only
  refine CallsOnly.trans (CallsOnly.modPos (CallsOnly.note ?_ _) _ _) (nightIfUnstaffed_frame _ _)
  exact CallsOnly.trans (by rfl) (withdrawOffer_frame _ _)

/-! ## Withdrawal -/

theorem dropLeg_frame (c : CallRecord) (s : State) : CallsOnly s (dropLeg c s) := by
  unfold dropLeg; split <;> rfl

theorem leavePlace_frame (n : Notice) (c : CallRecord) (s : State) : CallsOnly s (leavePlace n c s) := by
  unfold leavePlace
  split
  · exact (dequeue_frame _ _ _).trans (settleSweep_frame _ _)
  · split <;> rfl
  · exact (leaveLoop_frame _ _).trans (noticeHome_frame _ _ _)
  · exact (leaveLoop_frame _ _).trans (noticeHome_frame _ _ _)
  · exact leaveLoop_frame _ _
  · exact leaveLoop_frame _ _
  · rfl
  · split <;> rfl
  · rfl

theorem withdraw_frame (n : Notice) (c : CallRecord) (s : State) : CallsOnly s (withdraw n c s) :=
  ((dropLeg_frame c s).trans (leavePlace_frame n c _)).retire _

end Sys2Proof.Machine
end

