-- ==== Sys2Proof/Laws/Messages.lean ====
section
/-! SUPPORT. The messages of an event for a console, in the form in which the claims speak of them: which they are, and in
which order they stand. -/

namespace Sys2Proof.Machine

/-- The messages for what changed in a position's image, one by one (R81). -/
theorem imageChanges_eq (s t : State) (p : Nat) : imageChanges s t p = imageNews p s t := by
  have lamp : ∀ l ∈ loopNumbers,
      (positionImage p s).contains (.lamp l (loopLamp p l t)) = decide (loopLamp p l t = loopLamp p l s) := by
    intro l hl
    have : l ≤ 6 ∧ 1 ≤ l := by simp [loopNumbers] at hl; omega
    rw [Bool.eq_iff_iff]
    simp only [positionImage, lampMsgs, List.contains_iff_mem, List.mem_append, List.mem_map, List.mem_cons, List.not_mem_nil,
      decide_eq_true_eq]
    constructor
    · rintro ((⟨k, _, h⟩ | h | h | h) | h | h)
      · simp at h; obtain ⟨rfl, h⟩ := h; exact h.symm
      · simp at h; omega
      · simp at h
      · exact h.elim
      · simp at h
      · exact h.elim
    · intro h; exact .inl (.inl ⟨l, hl, by rw [h]⟩)
  have offer : (positionImage p s).contains (.lamp 7 (offerLamp p t)) = decide (offerLamp p t = offerLamp p s) := by
    rw [Bool.eq_iff_iff]; simp [positionImage, lampMsgs, loopNumbers]
  have avail : (positionImage p s).contains (.availability (t.pos p).avail) = decide ((t.pos p).avail = (s.pos p).avail) := by
    rw [Bool.eq_iff_iff]; simp [positionImage, lampMsgs, loopNumbers]
  have display : (positionImage p s).contains (.display (displayOf p t)) = decide (displayOf p t = displayOf p s) := by
    rw [Bool.eq_iff_iff]; simp [positionImage, lampMsgs, loopNumbers]
  have loops : (loopNumbers.map (fun l => ConMsg.lamp l (loopLamp p l t))).filter (fun m => !(positionImage p s).contains m)
      = (loopNumbers.filter (fun l => loopLamp p l t ≠ loopLamp p l s)).map (fun l => .lamp l (loopLamp p l t)) := by
    rw [List.filter_map]
    congr 1
    apply List.filter_congr
    intro l hl
    show (!(positionImage p s).contains (.lamp l (loopLamp p l t))) = _
    rw [lamp l hl, decide_not]
  unfold imageChanges imageNews
  rw [show positionImage p t = loopNumbers.map (fun l => ConMsg.lamp l (loopLamp p l t)) ++
    [.lamp 7 (offerLamp p t)] ++ [.availability (t.pos p).avail] ++ [.display (displayOf p t)] by
      simp [positionImage, lampMsgs]]
  simp only [List.filter_append, loops, List.filter_cons, List.filter_nil, offer, avail, display]
  by_cases h : offerLamp p t = offerLamp p s <;> by_cases k : (t.pos p).avail = (s.pos p).avail <;>
    by_cases j : displayOf p t = displayOf p s <;> simp [h, k, j]

theorem groupChange_eq (s t : State) (p : Nat) : groupChange s t p = groupNews p s t := by
  simp only [groupChange, groupNews, groupMsg]
  refine if_congr ?_ rfl rfl
  simp only [ConMsg.group.injEq, true_and]
  exact ⟨fun h => ⟨h.2.symm, h.1.symm⟩, fun h => ⟨h.2.symm, h.1.symm⟩⟩

/-! ## The order of the messages (R204) -/

@[simp] theorem inOrder_nil (news : List ConMsg) : inOrder news [] = news := rfl

theorem inOrder_cons (news : List ConMsg) (m : Moment) (rest : List Moment) :
    inOrder news (m :: rest) = news.filter (stands (m :: rest)) ++ m.tone.toList.map .tone ++
      inOrder (news.filter (fun x => !stands (m :: rest) x)) rest := rfl

/-- Ordering loses nothing and adds the tones only. -/
theorem inOrder_perm (news : List ConMsg) (moments : List Moment) :
    (inOrder news moments).Perm (news ++ (moments.filterMap Moment.tone).map .tone) := by
  induction moments generalizing news with
  | nil => simp
  | cons m rest ih =>
    rw [inOrder_cons]
    refine (List.Perm.append_left _ (ih _)).trans ?_
    have tones : ((m :: rest).filterMap Moment.tone).map ConMsg.tone =
        m.tone.toList.map .tone ++ (rest.filterMap Moment.tone).map .tone := by
      rw [List.filterMap_cons]; cases m.tone <;> rfl
    have swap (a b c : List ConMsg) : (a ++ (b ++ c)).Perm (b ++ (a ++ c)) := by
      rw [← List.append_assoc, ← List.append_assoc]
      exact List.perm_append_comm.append_right _
    rw [tones, List.append_assoc]
    refine ((swap _ _ _).append_left _).trans ?_
    rw [← List.append_assoc]
    exact (List.filter_append_perm (stands (m :: rest)) news).append_right _

/-- Changes that all stand at the only moment precede its tone. -/
theorem inOrder_single (news : List ConMsg) (m : Moment) (h : ∀ x ∈ news, x ∈ m.image) :
    inOrder news [m] = news ++ m.tone.toList.map .tone := by
  have all : ∀ x ∈ news, stands [m] x = true := fun x hx => by simp [stands, h x hx]
  rw [inOrder_cons, List.filter_eq_self.2 all, List.filter_eq_nil_iff.2 (fun x hx => by simp [all x hx]), inOrder_nil,
    List.append_nil]

/-- The messages that an event places for a position: the image changes and the tones, then the GROUP message (R51, R81). -/
theorem eventMsgs_perm (s t : State) (p : Nat) :
    ∃ msgs : List ConMsg, msgs.Perm (imageNews p s t ++ ((momentsAt p t).filterMap Moment.tone).map .tone) ∧
      eventMsgs s t p = msgs ++ groupNews p s t := by
  refine ⟨_, inOrder_perm _ _, ?_⟩
  rw [eventMsgs, imageChanges_eq, groupChange_eq]

/-- An event with no moment at a position places its image changes in the order of the image. -/
theorem eventMsgs_noMoment (s t : State) (p : Nat) (h : momentsAt p t = []) :
    eventMsgs s t p = imageNews p s t ++ groupNews p s t := by
  rw [eventMsgs, imageChanges_eq, groupChange_eq, h, inOrder_nil]

/-! ## Frames -/

/-- The bits of a poll's control byte that R206 states, whatever the others are. -/
theorem pollControl_stated (draw : Nat) (out ack holdKeys sync : Bool) :
    pollControl draw out ack holdKeys sync % 16 = bit out 1 + bit ack 2 + bit holdKeys 4 + bit sync 8 := by
  unfold pollControl
  rw [Nat.add_mul_mod_self_left]
  cases out <;> cases ack <;> cases holdKeys <;> cases sync <;> rfl

/-- The control byte of a poll fits a byte. -/
theorem pollControl_lt (draw : Nat) (out ack holdKeys sync : Bool) : pollControl draw out ack holdKeys sync < 256 := by
  have h := (Config.pollUnusedBits draw).isLt
  unfold pollControl
  cases out <;> cases ack <;> cases holdKeys <;> cases sync <;> simp only [bit, if_true, Bool.false_eq_true, if_false] <;> omega

/-- A record image has 23 bytes, whatever its unused bits are (R196). -/
@[simp] theorem imageBytes_length (im : Image) : (imageBytes im).length = 23 := by
  rw [imageBytes, List.length_zipWith]
  rfl

end Sys2Proof.Machine
end

