-- ==== Sys2Proof/Laws/Requests.lean ====
section
/-! SUPPORT. How events come to be taken: the port's treatment of a request, admission at the outbound queue, and keys. One
lemma for each outcome, so that a proof about a command reaches the command's own effect without unfolding these. -/

namespace Sys2Proof.Machine

variable {s : State}

/-! ## Transactions in progress -/

/-- What the beginning of a transaction changes: the status byte that it holds. -/
theorem begun_eq (s : State) : s.begun = { s with opened := s.begun.opened } := by
  unfold State.begun; split <;> rfl

theorem begun_opened (s : State) :
    s.begun.opened =
      if s.opened = none ∧ (s.pending.take (s.overlaps.headD 0)).any isTransaction then some (statusByte s)
      else s.opened := by
  unfold State.begun; split <;> rfl

/-- A transaction begins once. -/
theorem begun_begun (s : State) : s.begun.begun = s.begun := by
  by_cases h : s.opened = none ∧ (s.pending.take (s.overlaps.headD 0)).any isTransaction = true
  · rw [State.begun.eq_1 s, if_pos h, State.begun, if_neg (by simp)]
  · rw [State.begun.eq_1 s, if_neg h, State.begun, if_neg h]

@[simp] theorem begun_phase (s : State) : s.begun.phase = s.phase := by rw [begun_eq]
@[simp] theorem begun_timeCount (s : State) : s.begun.timeCount = s.timeCount := by rw [begun_eq]
@[simp] theorem begun_slots (s : State) : s.begun.slots = s.slots := by rw [begun_eq]
@[simp] theorem begun_arrivalCounter (s : State) : s.begun.arrivalCounter = s.arrivalCounter := by rw [begun_eq]
@[simp] theorem begun_groups (s : State) : s.begun.groups = s.groups := by rw [begun_eq]
@[simp] theorem begun_classes (s : State) : s.begun.classes = s.classes := by rw [begun_eq]
@[simp] theorem begun_ageShift (s : State) : s.begun.ageShift = s.ageShift := by rw [begun_eq]
@[simp] theorem begun_bypassLimit (s : State) : s.begun.bypassLimit = s.bypassLimit := by rw [begun_eq]
@[simp] theorem begun_recallLimit (s : State) : s.begun.recallLimit = s.recallLimit := by rw [begun_eq]
@[simp] theorem begun_timers (s : State) : s.begun.timers = s.timers := by rw [begun_eq]
@[simp] theorem begun_positions (s : State) : s.begun.positions = s.positions := by rw [begun_eq]
@[simp] theorem begun_stations (s : State) : s.begun.stations = s.stations := by rw [begun_eq]
@[simp] theorem begun_hunts (s : State) : s.begun.hunts = s.hunts := by rw [begun_eq]
@[simp] theorem begun_outbound (s : State) : s.begun.outbound = s.outbound := by rw [begun_eq]
@[simp] theorem begun_waiting (s : State) : s.begun.waiting = s.waiting := by rw [begun_eq]
@[simp] theorem begun_locked (s : State) : s.begun.locked = s.locked := by rw [begun_eq]
@[simp] theorem begun_discarded (s : State) : s.begun.discarded = s.discarded := by rw [begun_eq]
@[simp] theorem begun_scan (s : State) : s.begun.scan = s.scan := by rw [begun_eq]
@[simp] theorem begun_block (s : State) : s.begun.block = s.block := by rw [begun_eq]
@[simp] theorem begun_toPoll (s : State) : s.begun.toPoll = s.toPoll := by rw [begun_eq]
@[simp] theorem begun_exchange (s : State) : s.begun.exchange = s.exchange := by rw [begun_eq]
@[simp] theorem begun_overlaps (s : State) : s.begun.overlaps = s.overlaps := by rw [begun_eq]
@[simp] theorem begun_sdo (s : State) : s.begun.sdo = s.sdo := by rw [begun_eq]
@[simp] theorem begun_bus (s : State) : s.begun.bus = s.bus := by rw [begun_eq]
@[simp] theorem begun_moments (s : State) : s.begun.moments = s.moments := by rw [begun_eq]
@[simp] theorem begun_freeDraws (s : State) : s.begun.freeDraws = s.freeDraws := by rw [begun_eq]
@[simp] theorem begun_pending (s : State) : s.begun.pending = s.pending := by rw [begun_eq]
@[simp] theorem begun_slot (s : State) (n : Nat) : s.begun.slot n = s.slot n := by rw [begun_eq]; rfl
@[simp] theorem begun_group (s : State) (n : Nat) : s.begun.group n = s.group n := by rw [begun_eq]; rfl
@[simp] theorem begun_cls (s : State) (n : Nat) : s.begun.cls n = s.cls n := by rw [begun_eq]; rfl
@[simp] theorem begun_pos (s : State) (n : Nat) : s.begun.pos n = s.pos n := by rw [begun_eq]; rfl
@[simp] theorem begun_station (s : State) (n : Nat) : s.begun.station n = s.station n := by rw [begun_eq]; rfl
@[simp] theorem begun_huntRange (s : State) (n : Nat) : s.begun.huntRange n = s.huntRange n := by rw [begun_eq]; rfl
@[simp] theorem begun_call (s : State) (n : Nat) : s.begun.call n = s.call n := by rw [begun_eq]; rfl
@[simp] theorem begun_reserveFree (s : State) : s.begun.reserveFree = s.reserveFree := by rw [begun_eq]; rfl

/-- The first transaction of a queue stands among its first `n` commands exactly if fewer than `n` stand ahead of it. -/
theorem any_take_isTransaction (ahead behind : List Instr) (c : Instr) (n : Nat)
    (h : ∀ e ∈ ahead, isTransaction e = false) (hc : isTransaction c = true) :
    ((ahead ++ c :: behind).take n).any isTransaction = decide (ahead.length < n) := by
  induction ahead generalizing n with
  | nil => cases n <;> simp [hc]
  | cons a as ih =>
    obtain ⟨ha, has⟩ := List.forall_mem_cons.1 h
    cases n with
    | zero => rfl
    | succ n => simpa [ha] using ih n has

@[simp] theorem closed_opened (s : State) : s.closed.opened = none := rfl
@[simp] theorem closed_overlaps (s : State) : s.closed.overlaps = s.overlaps.tail := rfl

theorem atPort_eq (f : State → State) (h : s.phase ≠ .inReset) : atPort f s = f s := by simp [atPort, h]

theorem atPort_inReset (f : State → State) (h : s.phase = .inReset) : atPort f s = s.closed := by simp [atPort, h]

theorem insideEvent_eq (f : State → State) (h : s.phase ≠ .inReset) : insideEvent f s = f s.begun := by
  simp [insideEvent, unlessReset, h]

theorem insideEvent_inReset (f : State → State) (h : s.phase = .inReset) : insideEvent f s = s := by
  simp [insideEvent, unlessReset, h]

/-! ## The port -/

theorem isReady_phase (h : s.isReady = true) : s.phase = .running := by
  simp only [State.isReady, Bool.and_eq_true, beq_iff_eq] at h
  exact h.1.1.1

theorem isReady_not_inReset (h : s.isReady = true) : s.phase ≠ .inReset := by
  rw [isReady_phase h]; decide

theorem isReady_reserve (h : s.isReady = true) : s.reserveFree = true := by
  simp only [State.isReady, Bool.and_eq_true] at h
  exact h.1.1.2

theorem reserveFree_iff (s : State) : s.reserveFree = true ↔ s.outbound.length ≤ 112 := by
  unfold State.reserveFree State.free Config.reserve Config.outboundCapacity
  rw [decide_eq_true_iff]
  omega

/-- A request that the port hands to its owner is taken as one event, on the state whose status byte has been shown. -/
theorem request_taken (k : ReqKind) (f : State → State) (hr : s.isReady = true) (hl : s.locked = false) :
    request k f s = takeEvent f (shiftStatus s) := by
  simp [request, atPort, isReady_not_inReset hr, writeRequest, hr, hl]

/-- On a locked link a request is answered LOCKED. -/
theorem request_locked (k : ReqKind) (f : State → State) (hr : s.isReady = true) (hl : s.locked = true) :
    request k f s = (shiftStatus s).emit (lockedAnswer k) := by
  simp [request, atPort, isReady_not_inReset hr, writeRequest, hr, hl]

/-- A port that is not ready discards a request. -/
theorem request_discarded (k : ReqKind) (f : State → State) (h : s.phase ≠ .inReset) (hr : s.isReady = false) :
    request k f s = { shiftStatus s with discarded := true } := by
  simp [request, atPort, h, writeRequest, hr]

theorem request_inReset (k : ReqKind) (f : State → State) (h : s.phase = .inReset) : request k f s = s.closed := by
  simp [request, atPort, h]

@[simp] theorem shiftStatus_slot (s : State) (n : Nat) : (shiftStatus s).slot n = s.slot n := rfl
@[simp] theorem shiftStatus_call (s : State) (r : Nat) : (shiftStatus s).call r = s.call r := rfl
@[simp] theorem shiftStatus_group (s : State) (g : Nat) : (shiftStatus s).group g = s.group g := rfl
@[simp] theorem shiftStatus_pos (s : State) (p : Nat) : (shiftStatus s).pos p = s.pos p := rfl
@[simp] theorem shiftStatus_station (s : State) (n : Nat) : (shiftStatus s).station n = s.station n := rfl
@[simp] theorem shiftStatus_opened (s : State) : (shiftStatus s).opened = none := rfl
@[simp] theorem shiftStatus_overlaps (s : State) : (shiftStatus s).overlaps = s.overlaps.tail := rfl
@[simp] theorem shiftStatus_outbound (s : State) : (shiftStatus s).outbound = s.outbound := rfl

/-- What a reference resolves to, in terms of the slot it names (R3). -/
theorem resolve_live_iff (report : Bool) (ref : Nat) (s : State) (c : CallRecord) :
    resolve report ref s = .live c ↔
      genOf ref ≠ 0 ∧ genOf ref = (s.slot (slotOf ref)).gen ∧ (s.slot (slotOf ref)).call = some c := by
  unfold resolve
  by_cases h0 : genOf ref = 0
  · simp [h0]
  by_cases h1 : genOf ref = (s.slot (slotOf ref)).gen
  · rw [if_neg h0, if_neg (not_not.2 h1)]
    cases hc : (s.slot (slotOf ref)).call with
    | none => cases report <;> simp
    | some d => simp [h1, h1 ▸ h0]
  · rw [if_neg h0, if_pos h1]
    simp [h1]

/-- A live record goes to the owner's step. -/
theorem onRecord_live (k : ReqKind) (report : Bool) (ref : Nat) (f : CallRecord → State → State) (s : State) (c : CallRecord)
    (h : resolve report ref s = .live c) : onRecord k report ref f s = f c s := by
  simp only [onRecord, h]

/-- The answer of an effect stands ahead of the orders of the effect, which does not see the queue (R191). -/
theorem answerFirst_outbound (s : State) (f : State → State) (a : State → Msg) :
    (answerFirst s f a).outbound
      = s.outbound ++ a (f { s with outbound := [] }) :: (f { s with outbound := [] }).outbound := rfl

/-! ## Admission -/

theorem takeAdmitted_taken (w : Waiting) (f : State → State) (h : s.reserveFree = true) : takeAdmitted w f s = endEvent s (f s) := by
  simp [takeAdmitted, h, takeEvent]

theorem takeAdmitted_waits (w : Waiting) (f : State → State) (h : s.reserveFree = false) : takeAdmitted w f s = joinWaiting w s := by
  simp [takeAdmitted, h]

/-- An event that waits holds one place, behind those that wait already. -/
theorem joinWaiting_spec (w : Waiting) (s : State) :
    joinWaiting w s = { s with waiting := if w ∈ s.waiting then s.waiting else s.waiting ++ [w] } := by
  unfold joinWaiting
  by_cases h : w ∈ s.waiting <;> simp [h]

/-- An expiry that has fallen due, at a record that fits, with the reserve free. -/
theorem expiryStep_taken (slot : Nat) (kind : DeadlineKind) (fits : CallRecord → Bool) (effect : CallRecord → State → State)
    (c : CallRecord) (d : Deadline) (hr : s.reserveFree = true) (hc : (s.slot slot).call = some c)
    (hd : c.deadline = some d) (hk : d.kind = kind) (hf : fits c = true) (ht : d.due s.timeCount = true) :
    expiryStep slot kind fits effect s = endEvent s (effect c (clearDeadline c.ref s)) := by
  simp [expiryStep, hc, hd, hk, hf, ht, takeAdmitted_taken _ _ hr]

/-- A sweep step that has fallen due, with the reserve free. -/
theorem sweepStep_taken (g due : Nat) (hr : s.reserveFree = true) (h : (s.group g).sweep = .active due)
    (hd : due ≤ s.timeCount) : sweepStep g s = endEvent s (sweepEffect g s) := by
  simp [sweepStep, h, hd, takeAdmitted_taken _ _ hr]

/-- A sweep step that waited, while the sweep has the next step time for which it waited (R177). -/
theorem takeWaitingSweep_due (g due : Nat) (hr : s.reserveFree = true) (h : (s.group g).sweep = .active due)
    (hd : due ≤ s.timeCount) : takeWaitingSweep g due s = sweepStep g s := by
  rw [sweepStep_taken g due hr h hd]; simp [takeWaitingSweep, h, hd, takeEvent]

/-- A sweep step whose sweep has ended since, or started anew, is not taken (R170, R177). -/
theorem takeWaitingSweep_stale (g due : Nat) (h : (s.group g).sweep ≠ .active due) : takeWaitingSweep g due s = s := by
  simp [takeWaitingSweep, h]

/-! ## Keys -/

/-- A key whose event stands at the head of the intake list, with the reserve free. -/
theorem keyStep_taken (p : Nat) (fits : Nat → Nat → Bool) (key : State → KeyOutcome) (code arg : Nat)
    (h : headEvent p s = some (.key code arg)) (hf : fits code arg = true) (hr : s.reserveFree = true) :
    keyStep p fits key s = endEvent s (keyEffect p key (popIntake p s)) := by
  simp [keyStep, h, hf, hr, takeKey, takeEvent]

/-- Clearing the notice reaches the notice and the moments of the event only. -/
@[simp] theorem noticeCleared_eq (p : Nat) (s : State) : noticeCleared p s = (s.setNotice p none).note p := rfl

/-- What a key does, by its outcome (R57, R80). -/
theorem keyEffect_cases (p : Nat) (key : State → KeyOutcome) (s : State) :
    (∃ t, key (noticeCleared p s) = .accepted t ∧ keyEffect p key s = t) ∨
      (key (noticeCleared p s) = .refused ∧ keyEffect p key s = s.tone p .error) ∨
      (key (noticeCleared p s) = .refusedAllBusy ∧
        keyEffect p key s = (s.setNotice p (some .allBusy)).tone p .error) := by
  unfold keyEffect
  cases key (noticeCleared p s) with
  | accepted t => exact .inl ⟨t, rfl, rfl⟩
  | refused => exact .inr (.inl ⟨rfl, rfl⟩)
  | refusedAllBusy => exact .inr (.inr ⟨rfl, rfl⟩)

theorem whenSignedIn_accepted {p : Nat} {key : State → KeyOutcome} {t : State} (h : whenSignedIn p key s = .accepted t) :
    (s.pos p).avail.signedIn = true ∧ key s = .accepted t := by
  unfold whenSignedIn at h
  split at h
  · exact ⟨‹_›, h⟩
  · cases h

theorem onTalkCall_accepted {p : Nat} {key : CallRecord → State → KeyOutcome} {t : State}
    (h : onTalkCall p key s = .accepted t) : ∃ c, talkCall p s = some c ∧ key c s = .accepted t := by
  unfold onTalkCall at h
  split at h
  · cases h
  · exact ⟨_, ‹_›, h⟩

/-- An accepted key other than HUNT changes calls, places and messages only; HUNT moves the pointer of its range besides. -/
theorem holdKey_frame {p : Nat} {t : State} (h : holdKey p s = .accepted t) : CallsOnly s t := by
  obtain ⟨-, h⟩ := whenSignedIn_accepted h
  obtain ⟨c, -, h⟩ := onTalkCall_accepted h
  split at h
  · cases h; exact holdCall_frame _ _ _
  · cases h

theorem releaseKey_frame {p : Nat} {t : State} (h : releaseKey p s = .accepted t) : CallsOnly s t := by
  obtain ⟨-, h⟩ := whenSignedIn_accepted h
  split at h
  · cases h; rfl
  · split at h
    · split at h
      · cases h
      · cases h; exact releaseExtend_frame ‹_›
    · cases h
      exact CallsOnly.trans (by rfl) (leaveAndRetire_frame _ _)

theorem pull_frame (p : Nat) (s : State) : CallsOnly s (pull p s) := by
  unfold pull; split <;> rfl

theorem answerTakes_frame (p : Nat) (s : State) : CallsOnly s (answerTakes p s) := by
  unfold answerTakes takeOffer
  split
  · split <;> rfl
  · split
    · rfl
    · exact pull_frame p s

theorem answerKey_frame {p : Nat} {t : State} (h : answerKey p s = .accepted t) : CallsOnly s t := by
  obtain ⟨-, h⟩ := whenSignedIn_accepted h
  split at h
  · cases h
  · rename_i u hu
    split at h
    · cases h
    · cases h
      exact (CallsOnly.trans (by rfl) (clearTalkPath_frame hu)).trans (answerTakes_frame _ _)

theorem loopKey_frame {p n : Nat} {t : State} (h : loopKey p n s = .accepted t) : CallsOnly s t := by
  obtain ⟨-, h⟩ := whenSignedIn_accepted h
  split at h
  · split at h
    · cases h
    · split at h
      · cases h; rfl
      · split at h
        · cases h
        · split at h
          · cases h
          · cases h; exact ((clearTalkPath_frame ‹_›).note p).trans (takeOntoTalkPath_frame _ _ _ _)
  · cases h

theorem dialKey_frame {p n : Nat} {t : State} (h : dialKey p n s = .accepted t) : CallsOnly s t := by
  obtain ⟨-, h⟩ := whenSignedIn_accepted h
  split at h
  · cases h; rfl
  · cases h

theorem extendKey_frame {p : Nat} {m : Mode} {t : State} (h : extendKey p m s = .accepted t) : CallsOnly s t := by
  obtain ⟨-, h⟩ := whenSignedIn_accepted h
  obtain ⟨c, -, h⟩ := onTalkCall_accepted h
  split at h
  · cases h
  · split at h
    · cases h; exact startExtend_frame _ _ _ _ _
    · cases h

theorem retryKey_frame {p : Nat} {t : State} (h : retryKey p s = .accepted t) : CallsOnly s t := by
  obtain ⟨-, h⟩ := whenSignedIn_accepted h
  obtain ⟨c, -, h⟩ := onTalkCall_accepted h
  split at h
  · cases h
  · split at h
    · cases h; exact startExtend_frame _ _ _ _ _
    · cases h

theorem huntKey_frame {p n : Nat} {t : State} (h : huntKey p n s = .accepted t) :
    ∃ r st, s.huntRange n = some r ∧ huntSearch r s = some st ∧ CallsOnly (s.setHunt n (some (r.chose st))) t := by
  obtain ⟨-, h⟩ := whenSignedIn_accepted h
  obtain ⟨c, -, h⟩ := onTalkCall_accepted h
  split at h
  · split at h
    · cases h
    · split at h
      · cases h
      · cases h; exact ⟨_, _, ‹_›, ‹_›, startExtend_frame _ _ _ _ _⟩
  · cases h

theorem cancelKey_frame {p : Nat} {t : State} (h : cancelKey p s = .accepted t) : CallsOnly s t := by
  obtain ⟨-, h⟩ := whenSignedIn_accepted h
  obtain ⟨c, -, h⟩ := onTalkCall_accepted h
  split at h
  · cases h; exact (dropLeg_frame _ _).trans (returnToSource_frame _ _)
  · cases h

theorem swapKey_frame {p : Nat} {t : State} (h : swapKey p s = .accepted t) : CallsOnly s t := by
  obtain ⟨-, h⟩ := whenSignedIn_accepted h
  obtain ⟨c, -, h⟩ := onTalkCall_accepted h
  split at h
  · cases h; rfl
  · cases h

theorem campKey_frame {p : Nat} {t : State} (h : campKey p s = .accepted t) : CallsOnly s t := by
  obtain ⟨-, h⟩ := whenSignedIn_accepted h
  obtain ⟨c, -, h⟩ := onTalkCall_accepted h
  split at h
  · cases h
    exact (CallsOnly.trans (by rfl) (leaveLoop_frame _ _)).trans (campJoin_frame _ _)
  · cases h

theorem readyKey_frame {p : Nat} {t : State} (h : readyKey p s = .accepted t) : CallsOnly s t := by
  unfold readyKey at h
  split at h
  · cases h; rfl
  · cases h

theorem breakKey_frame {p : Nat} {t : State} (h : breakKey p s = .accepted t) : CallsOnly s t := by
  unfold breakKey at h
  split at h
  · cases h; exact CallsOnly.trans (by rfl) (withdrawOffer_frame _ _)
  · cases h

theorem signInKey_frame {p : Nat} {t : State} (h : signInKey p s = .accepted t) : CallsOnly s t := by
  unfold signInKey at h
  split at h
  · cases h; exact CallsOnly.trans (by rfl) (dayEntry_frame _ _)
  · cases h

theorem signOutKey_frame {p : Nat} {t : State} (h : signOutKey p s = .accepted t) : CallsOnly s t := by
  obtain ⟨-, h⟩ := whenSignedIn_accepted h
  split at h
  · cases h
  · cases h; exact leavingEvent_frame _ _

/-! ## Expiries, steps and reports -/

theorem expiryEffect_frame (kind : DeadlineKind) (c : CallRecord) (s : State) : CallsOnly s (expiryEffect kind c s) := by
  cases kind <;> simp only [expiryEffect]
  · rfl
  · unfold warningExpiryEffect
    split
    · exact divertQueued_frame _ _ _ _ _
    · rfl
  · unfold offerExpiryEffect
    split
    · exact reinsert_frame _ _
    · exact CallsOnly.trans (by rfl) (reinsert_frame _ _)
  · exact takeRecall_frame _ _
  · exact (leaveLoop_frame _ _).trans (stage2_frame _ _)
  · split_ifs
    · exact (CallsOnly.trans (by rfl) (returnToSource_frame _ _)).trans (noticeHome_frame _ _ _)
    · exact CallsOnly.trans (by rfl) (failCampRing_frame _ _)
    · exact CallsOnly.trans (by rfl) (takeRecall_frame _ _)
  · exact CallsOnly.trans (by rfl) (leaveCampOn_frame _ _)

theorem pairingEffect_frame (g : Nat) (s : State) : CallsOnly s (pairingEffect g s) :=
  CallsOnly.trans (by rfl) (pairUp_frame _ _ _)

theorem sweepEffect_frame (g : Nat) (s : State) : CallsOnly s (sweepEffect g s) := by
  unfold sweepEffect scheduleSweep
  split
  · rfl
  · split
    · exact settleSweep_frame _ _
    · split
      · exact (divertQueued_frame _ _ _ _ _).trans (by rfl)
      · exact divertQueued_frame _ _ _ _ _

theorem releaseCall_frame (c : CallRecord) (s : State) : CallsOnly s (releaseCall c s) := by
  have hold : ∀ t : State, CallsOnly t (holdAndRecall c.ref t) := fun t =>
    (CallsOnly.trans (by rfl) (leaveLoop_frame _ _)).trans (takeRecall_frame _ _)
  unfold releaseCall
  split
  · exact (leaveLoop_frame _ _).trans (takeRecall_frame _ _)
  · exact (leaveLoop_frame _ _).trans (stage2_frame _ _)
  · exact hold _
  · split
    · exact blindRelease_frame _ _
    · exact (dropLeg_frame _ _).trans (hold _)
  · rfl

theorem releaseEffect_frame (p : Nat) (s : State) : CallsOnly s (releaseEffect p s) := by
  unfold releaseEffect
  dsimp only
  split
  · rfl
  · split
    · rfl
    · exact CallsOnly.trans (by rfl) (releaseCall_frame _ _)

theorem setRinging_frame (c : CallRecord) (s : State) : CallsOnly s (setRinging c s) := rfl

theorem ringEffect_frame (c : CallRecord) (o : RingOutcome) (s : State) : CallsOnly s (ringEffect c o s) := by
  unfold ringEffect
  split_ifs
  · unfold ringExtending
    split
    · split
      · exact CallsOnly.trans (by rfl) (blindRelease_frame _ _)
      · rfl
    · rfl
    · exact (attachSource_frame _ _).trans (by rfl)
    · exact (returnToSource_frame _ _).trans (noticeHome_frame _ _ _)
    · exact (returnToSource_frame _ _).trans (noticeHome_frame _ _ _)
  · unfold ringCamp
    split
    · rfl
    · exact CallsOnly.trans (by rfl) (bridgeCall_frame _ _)
    · exact returnCampRing_frame _ _
    · exact failCampRing_frame _ _
    · exact failCampRing_frame _ _
  · unfold ringAway
    split
    · rfl
    · exact bridgeCall_frame _ _
    · split
      · exact campJoin_frame _ _
      · exact leaveCampOn_frame _ _
    · exact takeRecall_frame _ _
    · exact takeRecall_frame _ _

end Sys2Proof.Machine
end

