-- ==== Sys2Proof/Tests/Slice0.lean ====
section
/-! SUPPORT. The model's own tests: well-formedness, framing, one step of many commands, and for every obligation with
hypotheses a state that meets them (`witness_…`). Expected results are read from the spec's rules and tables. -/

namespace Sys2Proof.Tests

open Sys2Proof.Machine

-- one theorem after another: their kernel evaluations side by side would ask for more threads than the memory limit allows
set_option Elab.async false

/-! ## Helpers: small running states -/

/-- A running part at time 5000, the link empty. -/
def runs : State := { State.reset with phase := .running, timeCount := 5000 }

/-- The live record of reference `ref`: origin TRUNK with the slot's number, class 0, group 0, waiting since 4900. -/
def rec0 (ref : Nat) (st : CallState) : CallRecord :=
  { newRecord ref .trunk (slotOf ref) 0 0 [] with state := st, enqueueTime := 4900, arrivalSeq := slotOf ref + 1 }

/-- A present console's position 1: READY, in group 0. -/
def desk : Position := { positionReset 1 with avail := .ready, present := true, missed := 0, sync := false }

/-- One live call. -/
def withCall (c : CallRecord) (s : State) : State := s.setSlot (slotOf c.ref) ⟨genOf c.ref, some c⟩

/-- Position `p` set. -/
def withPos (p : Nat) (q : Position) (s : State) : State := s.modPos p (fun _ => q)

/-- Group 0 set. -/
def withGroup (r : GroupRecord) (s : State) : State := s.modGroup 0 (fun _ => r)

/-- Station `st` set. -/
def withStation (st : Nat) (e : Station) (s : State) : State := s.modStation st (fun _ => e)

/-- A DAY group with a queue. -/
def dayGroup (queue : List Nat) : GroupRecord := { groupReset 0 with mode := .day, queue := queue }

/-- Call 256 on loop `l` of position 1. -/
def onLoop (l : Nat) (c : CallRecord) : CallRecord := { c with home := some 1, loop := some l }

/-- The TALKING record of reference 256 on loop 1 of position 1. -/
def talkRec : CallRecord := { onLoop 1 (rec0 256 .talking) with talkSide := some .source }

/-- An EXTENDING talk call to station 40. -/
def extRec (m : Mode) (pr : Progress) (side : Side) : CallRecord :=
  { onLoop 1 (rec0 256 .extending) with
    mode := m, progress := some pr, talkSide := some side, curDest := some 40, attempt := 7 }

/-- The desk with call 256 as its talk call on loop 1, and an intake list. -/
def talkDesk (intake : List ConEvent) : Position :=
  { desk.setLoop 1 (some 256) with talkLoop := some 1, intake := intake }

/-- A talk call `c` of reference 256 at position 1. -/
def talks (c : CallRecord) (intake : List ConEvent) : State :=
  withCall c (withPos 1 (talkDesk intake) (withGroup (dayGroup []) runs))

/-- A record with a deadline that has just fallen due. -/
def due (kind : DeadlineKind) (c : CallRecord) : CallRecord := { c with deadline := some ⟨kind, 4000, 1000⟩ }

/-- The state that a step of `i` gives. -/
def after (i : Instr) (s : State) : State :=
  match exec i s with
  | .next t => t
  | .fault _ | .refused _ => s

/-! ## Well-formed and ill-formed commands -/

theorem test_wf_byte : (Instr.scan 256 0).wf = false ∧ (Instr.scan 255 255).wf = true := by decide
theorem test_wf_half : (Instr.cleared 65536).wf = false ∧ (Instr.cleared 65535).wf = true := by decide
theorem test_wf_position : (Instr.poll 0).wf = false ∧ (Instr.poll 9).wf = false ∧ (Instr.poll 8).wf = true := by decide
theorem test_wf_group : (Instr.pairing 4).wf = false ∧ (Instr.sweepStep 3).wf = true := by decide
theorem test_wf_slot : (Instr.campExpiry 256).wf = false ∧ (Instr.queueExpiry 255).wf = true := by decide
theorem test_wf_known_key : (Instr.unknownKey 1 15 0).wf = false ∧ (Instr.unknownKey 1 16 0).wf = true := by decide
theorem test_wf_known_item :
    (Instr.configureUnknownItem 8 0).wf = false ∧ (Instr.configureUnknownItem 9 0).wf = true := by decide
theorem test_wf_events : (Instr.countedReply 1 true (List.replicate 5 (.dial 1))).wf = false ∧
    (Instr.countedReply 1 true [.dial 65536]).wf = false ∧ (Instr.countedReply 1 true [.key 256 0]).wf = false := by decide
theorem test_wf_tag : (Instr.present 0 0 0 0 (List.replicate 25 65)).wf = false ∧
    (Instr.present 0 0 0 0 [256]).wf = false ∧ (Instr.present 0 0 0 0 (List.replicate 24 65)).wf = true := by decide
theorem test_wf_codes : (Instr.stationBlock 0 2 [1]).wf = false ∧ (Instr.stationBlock 0 1 [16]).wf = false ∧
    (Instr.stationBlock 0 55 (List.replicate 55 0)).wf = false ∧ (Instr.stationBlock 0 1 [15]).wf = true := by decide

/-! ## Frames written out from the spec (R184, R187, R196, R206, R207) -/

theorem test_read_transaction : decodeTransaction [0x01, 0, 0] = .read 2 := by decide
theorem test_poll_transaction : decodeTransaction [0x00, 0xFF] = .statusPoll 2 := by decide
theorem test_cleared_frame : decodeTransaction [0x02, 0x02, 0x02, 0x12, 0x34] = .cleared 0x1234 := by decide
theorem test_present_frame : decodeWrite [0x01, 0x08, 0x01, 0x0F, 0xFF, 0x02, 0x03, 0x02, 0x41, 0x42] =
    .present 1 4095 2 3 [65, 66] := by decide
theorem test_station_block_frame : decodeWrite [0x06, 0x05, 0x0F, 0xFA, 0x03, 0x12, 0x3F] =
    .stationBlock 4090 3 [1, 2, 3] := by decide
theorem test_take_frame : decodeWrite [0x08, 0x05, 0x01, 0x02, 0x00, 0x01, 0x00] = .take 1 2 0 256 := by decide
theorem test_configure_group_frame :
    decodeWrite [0x0B, 0x0A, 0x05, 0x03, 0x01, 0x02, 0x00, 0x10, 0xFF, 0xFF, 0x01, 0x40] =
      .configureGroup 3 1 2 16 65535 1 64 := by decide
theorem test_unknown_item_frame : decodeWrite [0x0B, 0x03, 0x09, 0x05, 0x77] = .configureUnknownItem 9 5 := by decide
theorem test_malformed_frames : decodeWrite [0x00, 0x00] = .malformedRequest ∧ decodeWrite [0x02] = .malformedRequest ∧
    decodeWrite [0x02, 0x03, 0, 0, 0] = .malformedRequest ∧ decodeWrite [0x02, 0x02, 0] = .malformedRequest ∧
    decodeWrite [0x0D, 0x01, 0] = .malformedRequest ∧ decodeWrite [0x01, 0x1F] = .malformedRequest := by decide
theorem test_reply : decodeReply 3 [0x83, 0x05, 0x06, 0x01, 0x08, 0x0F, 0x02, 0x01, 0x02, 0x87] =
    some (true, [.key 8 15, .dial 258]) := by decide
theorem test_reply_of_another_address : decodeReply 4 [0x83, 0x01, 0x00, 0x82] = none := by decide
theorem test_no_word_spells_a_command : decodeTableWord 8 1 = none := rfl

/-! ## Witnesses: the machine and the control link -/

theorem witness_StepTakesFrontCommand : State.reset.pending = [] := rfl

theorem witness_ResetAndStartUp : State.reset.phase = .inReset ∧ { runs with phase := .starting }.phase = .starting ∧
    runs.phase ≠ .inReset ∧ { runs with timeCount := 2 ^ 48 - 2 }.timeCount < 2 ^ 48 - 1 ∧
    { runs with timeCount := 2 ^ 48 - 1 }.timeCount = 2 ^ 48 - 1 ∧ Instr.timeCountTick ≠ .hardwareReset ∧
    Instr.timeCountTick ≠ .resetNRelease := by decide

theorem witness_StatusByteAndStatusPoll : runs.phase ≠ .inReset ∧ runs.opened = none ∧ (∀ c ∈ runs.pending, isTransaction c = false) ∧
    (let s := { runs with pending := [.timeCountTick, .query 256] }
     s.pending = [.timeCountTick] ++ .query 256 :: [] ∧ (∀ e ∈ [Instr.timeCountTick], isTransaction e = false) ∧
       isTransaction (.query 256) = true ∧ s.opened = none ∧ ¬1 < s.overlaps.headD 0 ∧
       1 < { s with overlaps := [2] }.overlaps.headD 0) ∧
    { runs with opened := some 0xC0 }.opened = some 0xC0 ∧ (encodeRequest .linkClear).isSome = true := by decide

/-- One message outbound. -/
def oneOut : State := { runs with outbound := [.hold 256] }

/-- `n` messages outbound. -/
def manyOut (n : Nat) (s : State) : State := { s with outbound := List.replicate n (.hold 256) }

theorem witness_ReadSendsTheHeadAndAdmitsWaitingEvents : runs.phase ≠ .inReset ∧ runs.outbound = [] ∧
    oneOut.outbound = [.hold 256] ∧ (openingByte oneOut).getLsbD 6 = true ∧ 3 < (Msg.hold 256).frame.length ∧
    (Msg.hold 256).frame.length ≤ 4 ∧ oneOut.waiting = [] ∧
    (openingByte { oneOut with opened := some 0x80 }).getLsbD 6 = false ∧
    (manyOut 114 runs).outbound = .hold 256 :: List.replicate 113 (.hold 256) ∧
    112 < (List.replicate 113 (Msg.hold 256)).length := by decide +kernel

/-- The desk's console with one event at the head of its list. -/
def keyed (e : ConEvent) : State := withPos 1 { desk with intake := [e] } (withGroup (dayGroup []) runs)

theorem witness_ReadSendsTheHeadAndAdmitsWaitingEvents_key :
    let s : State := { manyOut 113 (keyed (.key 16 0)) with waiting := [.key 1] }
    s.phase ≠ .inReset ∧ s.outbound = .hold 256 :: List.replicate 112 (.hold 256) ∧ (openingByte s).getLsbD 6 = true ∧
      (List.replicate 112 (Msg.hold 256)).length ≤ 112 ∧ s.waiting = [.key 1] ∧
      AdmittedAs (.unknownKey 1 16 0) (.key 1) s := by
  refine ⟨by decide, rfl, by decide +kernel, by decide, rfl, ?_⟩
  exact .inr (.inr (.inr (.inr (.inl ⟨1, ⟨16, 0, rfl, by decide⟩, rfl⟩))))

theorem witness_ReadSendsTheHeadAndAdmitsWaitingEvents_expiry :
    let c := due .recallRing (rec0 256 .recalling)
    let s : State := { manyOut 113 (withCall c runs) with waiting := [.expiry 256 ⟨.recallRing, 4000, 1000⟩] }
    s.waiting = [.expiry 256 ⟨.recallRing, 4000, 1000⟩] ∧
      AdmittedAs (.recallRingExpiry 0) (.expiry 256 ⟨.recallRing, 4000, 1000⟩) s := by
  refine ⟨rfl, .inr (.inr (.inr (.inr (.inr ⟨0, due .recallRing (rec0 256 .recalling), ⟨.recallRing, 4000, 1000⟩,
    by decide, by decide, by decide, by decide, by decide, by decide⟩))))⟩

theorem witness_ReadSendsTheHeadAndAdmitsWaitingEvents_several :
    let s : State := { manyOut 113 (keyed (.key 16 0)) with waiting := [.sweep 0 4000, .key 1, .scan] }
    s.phase ≠ .inReset ∧ s.outbound = .hold 256 :: List.replicate 112 (.hold 256) ∧ (openingByte s).getLsbD 6 = true ∧
      (Msg.hold 256).frame.length ≤ 4 ∧ s.waiting.length = 3 := by
  refine ⟨by decide, rfl, by decide +kernel, by decide, rfl⟩

theorem witness_DiscardsAndTheLinkLock : (encodeRequest .restart).isSome = true ∧ (manyOut 113 runs).phase ≠ .inReset ∧
    (manyOut 113 runs).isReady = false ∧ (encodeRequest (.query 256)).isSome = true ∧ Instr.query 256 ≠ .linkClear ∧
    { manyOut 112 runs with locked := true }.isReady = true ∧ { runs with locked := true }.locked = true ∧
    runs.isReady = true := by decide +kernel

theorem test_status_byte : statusByte oneOut = 0xC0 ∧ statusByte (manyOut 113 runs) = 0x40 ∧
    statusByte { State.reset with phase := .starting } = 0x10 := by decide +kernel
theorem test_read_hold_frame : (after (.read 4) oneOut).sdo = [0xC0, 0x22, 0x02, 0x01, 0x00] ∧
    (after (.read 4) oneOut).outbound = [] ∧ (after (.read 3) oneOut).outbound = [.hold 256] := by decide

/-! ## Witnesses: the Call Table -/

/-- Group 0 NIGHT with night station 7. -/
def nightGroup (queue : List Nat) : GroupRecord := { groupReset 0 with night := some 7, queue := queue }

/-- Every slot holds a live record of generation 1. -/
def fullTable : State :=
  { runs with slots := (List.range 256).map (fun n => (n, ⟨1, some (rec0 (256 + n) .held)⟩)) }

theorem witness_PresentAllocates :
    let s := withCall (rec0 256 .held) runs
    LinkTakes s ∧ readOriginKind 1 = some .station ∧
      (∀ m < 256, ∀ c ∈ (s.slot m).call, ¬(c.originKind = .station ∧ c.originNum = 4095)) ∧
      (s.slot 1).call = none ∧ (∀ m < 1, (s.slot m).call ≠ none) ∧ s.arrivalCounter < 4294967295 ∧
      (s.group 3).night = none ∧
      (∀ ch ∈ List.replicate 12 126, 32 ≤ ch ∧ ch ≤ 126) ∧
      513 - 256 = (if (s.slot 1).gen = 255 then 1 else (s.slot 1).gen + 1) * 256 + 1 := by decide +kernel

theorem witness_PresentAllocates_wrap :
    let s := (withGroup (nightGroup []) runs).setSlot 0 ⟨255, none⟩
    LinkTakes s ∧ (∀ m < 256, ∀ c ∈ (s.slot m).call, ¬(c.originKind = .trunk ∧ c.originNum = 0)) ∧
      (s.slot 0).call = none ∧ (∀ m < 0, (s.slot m).call ≠ none) ∧ (s.group 0).mode = .night ∧
      (s.group 0).night = some 7 ∧ 256 = (if (s.slot 0).gen = 255 then 1 else (s.slot 0).gen + 1) * 256 + 0 := by
  decide +kernel

/-- With one live record, no two share an origin. -/
theorem originsUnique_of_one (s : State) (k : Nat) (v : Slot) (h : s.slots = [(k, v)]) : OriginsUnique s := by
  have none_at : ∀ m c, (s.slot m).call = some c → m = k := by
    intro m c hc
    by_cases e : k = m
    · exact e.symm
    · simp [State.slot, h, Tab.get, e, slotReset] at hc
  intro m n _ _ c d hc hd _ _
  rw [none_at m c hc, none_at n d hd]

theorem witness_PresentRefusals :
    let s := withCall (rec0 256 .held) runs
    LinkTakes s ∧ 1 < 2 ∧ presentValuesOk 0 0 7 3 [] = true ∧ readOriginKind 0 = some .trunk ∧ OriginsUnique s ∧
      (s.slot 0).call = some (rec0 256 .held) ∧ (rec0 256 .held).originKind = .trunk ∧
      (rec0 256 .held).originNum = 0 :=
  ⟨by decide +kernel, by decide, by decide, rfl, originsUnique_of_one _ 0 _ rfl, by decide +kernel, rfl, rfl⟩

theorem witness_PresentRefusals_full : LinkTakes fullTable ∧ presentValuesOk 1 0 0 0 [] = true ∧
    (∀ m < 256, (fullTable.slot m).call.any (fun c => !(c.originKind == .station && c.originNum == 0)) = true) := by
  decide +kernel

theorem witness_ReferencesThatNameNoLiveRecord :
    let s := withCall (rec0 256 .held) (runs.setSlot 1 ⟨1, none⟩)
    LinkTakes s ∧ 255 / 256 = 0 ∧ 512 / 256 ≠ 0 ∧ 512 / 256 ≠ (s.slot (512 % 256)).gen ∧ 257 / 256 ≠ 0 ∧
      257 / 256 = (s.slot (257 % 256)).gen ∧ (s.slot (257 % 256)).call = none := by decide +kernel

theorem witness_WithdrawalRetiresTheRecord :
    let s := withCall (rec0 256 .held) runs
    LinkTakes s ∧ Names 256 (rec0 256 .held) s ∧
      Withdraws (.cleared 256) 256 0 (rec0 256 .held) .cleared .callerCleared ∧
      Withdraws (.take 0 1 0 256) 256 0 (rec0 256 .held) .take .callTaken := by decide +kernel

theorem test_present_answer : (after (.present 0 5 1 0 [65]) runs).outbound = [.answer .present .ok 256 1 .none] ∧
    ((after (.present 0 5 1 0 [65]) runs).call 256).map (fun c => (c.tag, c.deadline)) =
      some (some [65], some ⟨.queue, 5000, 1200⟩) := by decide +kernel
theorem test_cleared_drops_an_answered_extend :
    (after (.cleared 256) (talks (extRec .screened .answered .dest) [])).outbound =
      [.answer .cleared .ok 256 5 .none, .drop 256 7] ∧
    ((after (.cleared 256) (talks (extRec .screened .answered .dest) [])).pos 1).notice = some .callerCleared := by
  decide +kernel

theorem test_an_event_inside_the_next_transaction_leaves_its_status_byte :
    (after .timeCountTick { runs with pending := [.query 256], overlaps := [1] }).opened = some 0x80 ∧
      (after .timeCountTick { runs with pending := [.query 256] }).opened = none ∧
      (after .timeCountTick { runs with pending := [.pollCycle, .query 256], overlaps := [1] }).opened = none ∧
      (after .timeCountTick { runs with pending := [.pollCycle, .query 256], overlaps := [2] }).opened = some 0x80 := by
  decide +kernel
/-- R212: start-up ended before the first bit of a STATUS_POLL, or inside its transaction. -/
theorem test_start_up_ends_before_or_inside_a_status_poll :
    let s := { State.reset with phase := .starting, pending := [.statusPoll 1] }
    openingByte (after .startUpEnd s) = 0x80 ∧ openingByte (after .startUpEnd { s with overlaps := [1] }) = 0x10 := by
  decide +kernel
/-- Chapter 9, worked sequence, steps 1 and 2: the expiry stands before the WRITE, whose status byte shows ATTN alone. -/
theorem test_worked_sequence_expiry_then_write :
    let c := { extRec .screened .pending .dest with deadline := some ⟨.noAnswer, 4000, 250⟩ }
    let t := after (.noAnswerExpiryExtending 0)
      { talks c [] with outbound := List.replicate 112 (.hold 256), pending := [.query 256] }
    t.outbound.length = 114 ∧ openingByte t = 0x40 := by decide +kernel
theorem test_write_begun_ready_and_discarded :
    let t := after (.query 256) { manyOut 113 runs with opened := some 0x80 }
    t.sdo = [0x80] ∧ t.discarded = true ∧ t.outbound.length = 113 ∧ t.opened = none := by decide +kernel
theorem test_write_begun_not_ready_and_taken :
    let t := after (.query 256) { manyOut 112 runs with opened := some 0x48, discarded := true }
    t.sdo = [0x48] ∧ t.discarded = false ∧ t.outbound.length = 113 := by decide +kernel

/-- Where only position 1 is written, every other position is as at hardware reset. -/
theorem pos_of_one (s : State) (q : Position) (h : s.positions = [(1, q)]) (p : Nat) (hp : p ≠ 1) :
    s.pos p = positionReset p := by
  simp [State.pos, h, Tab.get, Ne.symm hp]

/-- Position 1 with a pending offer of call 256. -/
def offered : State := withCall (rec0 256 .offered) (withPos 1 { desk with offer := some 256 } (withGroup (dayGroup []) runs))

/-- A call of reference 256 on loop 2 of position 1, off the talk path. -/
def parked (c : CallRecord) : State :=
  withCall (onLoop 2 c) (withPos 1 (desk.setLoop 2 (some 256)) (withGroup (dayGroup []) runs))

/-- A call away at station 40, home position 1. -/
def awayRec (st : CallState) (fromCamp : Bool) : CallRecord :=
  { rec0 256 st with home := some 1, curDest := some 40, attempt := 7, fromCamp := fromCamp,
                     progress := if st = .ringingAway then some .ringing else none,
                     campStart := if fromCamp || st = .camped then some 4200 else none }

/-- Call 256 away, the desk READY with empty loops. -/
def away (c : CallRecord) : State := withCall c (withPos 1 desk (withGroup (dayGroup []) runs))

theorem witness_WithdrawalEmptiesThePlace :
    let w := Withdraws (.take 0 2 0 256) 256 0
    (∀ c : CallRecord, c.state ≠ .diverting → w c .take .callTaken) ∧
      (1 ∈ positionNumbers ∧ LinkTakes offered ∧ Names 256 (rec0 256 .offered) offered ∧
        (offered.pos 1).offer = some 256 ∧ ∀ q, q ≠ 1 → (offered.pos q).offer ≠ some 256) ∧
      (LinkTakes (talks talkRec []) ∧ Names 256 talkRec (talks talkRec []) ∧
        OnTalkPath 1 1 talkRec (talks talkRec [])) ∧
      (let c := onLoop 2 (rec0 256 .held)
       LinkTakes (parked (rec0 256 .held)) ∧ Names 256 c (parked (rec0 256 .held)) ∧ c.home = some 1 ∧ c.loop = some 2 ∧
        ((parked (rec0 256 .held)).pos 1).talkLoop ≠ some 2) ∧
      (let c := awayRec .camped false
       LinkTakes (away c) ∧ Names 256 c (away c) ∧ c.curDest = some 40) ∧
      (let c := awayRec .ringingAway true
       LinkTakes (away c) ∧ Names 256 c (away c) ∧ c.fromCamp = true) ∧
      (let c := rec0 256 .diverting
       Withdraws (.cleared 256) 256 0 c .cleared .callerCleared ∧ LinkTakes (away c) ∧ Names 256 c (away c)) := by
  refine ⟨fun c hc => ?_, ⟨by decide, by decide +kernel, by decide +kernel, by decide +kernel, fun q hq => ?_⟩,
    by decide +kernel, by decide +kernel, by decide +kernel, by decide +kernel, by decide +kernel⟩
  · refine Or.inr ⟨rfl, rfl, Or.inr (Or.inr ⟨rfl, ?_⟩)⟩
    cases h : c.state <;> first | rfl | exact absurd h hc
  · rw [pos_of_one offered { desk with offer := some 256 } rfl q hq]
    simp [positionReset]

theorem witness_WithdrawalEmptiesThePlace_queued :
    let s := withCall (rec0 256 .queued) (withGroup (dayGroup [256]) runs)
    LinkTakes s ∧ Names 256 (rec0 256 .queued) s ∧
      Withdraws (.cleared 256) 256 0 (rec0 256 .queued) .cleared .callerCleared := by decide +kernel

theorem witness_WithdrawalEmptiesThePlace_sweep :
    let c := { rec0 256 .queued with nightBound := true }
    let s := withCall c (withCall { rec0 257 .queued with nightBound := true }
      (withGroup { nightGroup [256, 257] with sweep := .active 5000 } runs))
    let u := withCall c (withGroup { nightGroup [256] with sweep := .active 5000 } runs)
    LinkTakes s ∧ Names 256 c s ∧ (∃ r ∈ (s.group c.group).queue, r ≠ 256 ∧ (s.call r).any (fun d => d.nightBound) = true) ∧
      LinkTakes u ∧ Names 256 c u ∧ (u.group c.group).sweep ≠ .idle ∧ ∀ r ∈ (u.group c.group).queue, r = 256 := by
  decide +kernel

theorem witness_TakeTestsItsConditionAndOrigin_bad : LinkTakes runs ∧ 2 < 3 ∧ 1 < 2 ∧ 4095 < 4096 := by decide

theorem test_take_without_a_reference_is_bad :
    (after (.take 1 3 0 5) runs).outbound =
      [.answer .take .badValue (Config.takeBadValueReference 0).toNat 0 .none] ∧
    (after (.take 0 3 0 300) runs).outbound = [.answer .take .badValue 300 0 .none] := ⟨rfl, rfl⟩

theorem witness_TakeTestsItsConditionAndOrigin :
    let s := away (rec0 256 .diverting)
    LinkTakes s ∧ readCondition 2 = some .always ∧ Names 256 (rec0 256 .diverting) s ∧
      TakeCondition.always.holds .diverting = false ∧ readOriginKind 0 = some .trunk ∧ OriginsUnique s ∧
      (rec0 256 .diverting).originNum = 0 ∧
      (∀ m < 256, ∀ c ∈ (s.slot m).call, ¬(c.originKind = .station ∧ c.originNum = 4095)) := by
  refine ⟨by decide +kernel, by decide, by decide +kernel, by decide, rfl, originsUnique_of_one _ 0 _ rfl, rfl,
    by decide +kernel⟩

theorem witness_QueryAnswersTheImage :
    let s := withCall (rec0 256 .held) (runs.setSlot 1 ⟨1, none⟩)
    LinkTakes s ∧ s.moments = [] ∧ (∀ p, (s.pos p).buffer.length ≤ 16) ∧ Names 256 (rec0 256 .held) s ∧
      512 / 256 ≠ (s.slot (512 % 256)).gen ∧ 257 / 256 = (s.slot (257 % 256)).gen ∧
      (s.slot (257 % 256)).call = none := by
  refine ⟨by decide +kernel, rfl, fun p => ?_, by decide +kernel, by decide, by decide, by decide⟩
  exact Nat.zero_le _

/-- A scan with `left` slots left, at slot `n`. -/
def scanning (n left : Nat) (s : State) : State := { s with scan := some ⟨n, n, left, 0, 0⟩ }

theorem witness_ScanExaminesItsSlots : LinkTakes runs ∧ 255 < 256 ∧
    (let s := scanning 0 2 (withCall (rec0 256 .held) runs)
     Admits s ∧ s.scan = some ⟨0, 0, 2, 0, 0⟩ ∧ (s.slot 0).call = some (rec0 256 .held)) ∧
    (let s := scanning 255 1 runs
     Admits s ∧ s.scan = some ⟨255, 255, 1, 0, 0⟩ ∧ (s.slot 255).call = none) := by decide +kernel

theorem test_scan_ends_at_255 : (after (.scan 250 15) runs).scan = some ⟨250, 250, 6, 0, 0⟩ ∧
    (after .scanStep (scanning 255 1 runs)).outbound = [.answer .scan .ok 0 0 (.scanClosing 255 1 0)] := by decide +kernel

/-! ## Witnesses: reports -/

theorem witness_RingResultAtAnExtendingCall (m : Mode) (side : Side) :
    let c := extRec m .ringing side
    LinkTakes (talks c []) ∧ Names 256 c (talks c []) ∧ 1 ∈ positionNumbers ∧ OnTalkPath 1 1 c (talks c []) ∧
      c.state = .extending ∧ c.attempt = 7 := by
  cases m <;> cases side <;> decide +kernel

theorem witness_RingResultAtAnExtendingCall_answered :
    let c := extRec .screened .answered .dest
    LinkTakes (talks c []) ∧ Names 256 c (talks c []) ∧ OnTalkPath 1 1 c (talks c []) := by decide +kernel

theorem witness_RingResultAtAnExtendingCall_blind :
    let c := extRec .blind .pending .dest
    LinkTakes (talks c []) ∧ Names 256 c (talks c []) ∧ 1 ∈ positionNumbers ∧ OnTalkPath 1 1 c (talks c []) ∧
      c.state = .extending ∧ c.mode = .blind ∧ c.progress = some .pending := by decide +kernel

theorem witness_LateAndBadReports :
    (let c := rec0 256 .held
     LinkTakes (away c) ∧ Names 256 c (away c) ∧ c.state ≠ .extending ∧ c.state ≠ .ringingAway) ∧
    (let c := extRec .screened .ringing .dest
     Names 256 c (talks c []) ∧ c.attempt ≠ 6) ∧
    (let c := extRec .screened .busy .source
     LinkTakes (talks c []) ∧ Names 256 c (talks c []) ∧ c.state = .extending ∧ c.progress = some .busy) := by
  decide +kernel

/-- Station 40 with a camp list and a camp ring. -/
def camped40 (list : List Nat) (ring : Option Nat) (s : State) : State :=
  withStation 40 { stationReset 40 with state := .busy, campList := list, ring := ring } s

theorem witness_RingResultAtACallRingingAway :
    (let c := awayRec .ringingAway false
     let s := camped40 [257, 258] none (away c)
     LinkTakes s ∧ Names 256 c s ∧ c.progress = some .ringing ∧ c.curDest = some 40 ∧
      (s.station 40).campAllowed = true ∧ (s.station 40).occupancy < 3 ∧ poolOccupancy s < 64 ∧ c.fromCamp = false) ∧
    (let c := awayRec .ringingAway true
     let s := camped40 [257] (some 256) (away c)
     LinkTakes s ∧ Names 256 c s ∧ (s.station 40).ring = some 256 ∧ c.campStart = some 4200 ∧
      s.timeCount < 4200 + s.timers.camp) := by decide +kernel

theorem witness_DivertResultOkRetires :
    let s := away (rec0 256 .diverting)
    LinkTakes s ∧ Names 256 (rec0 256 .diverting) s ∧ (rec0 256 .diverting).state = .diverting := by decide +kernel

theorem witness_DivertResultFailedReturnsTheCall :
    LinkTakes (away (rec0 256 .held)) ∧ Names 256 (rec0 256 .held) (away (rec0 256 .held)) ∧
      (rec0 256 .held).state ≠ .diverting := by decide +kernel

theorem test_ring_answered_keeps_the_talk_path :
    (after (.ringResult 256 7 2) (talks (extRec .screened .ringing .dest) [])).outbound =
      [.answer .ringResult .ok 256 5 .none] ∧
    loopLamp 1 1 (after (.ringResult 256 7 2) (talks (extRec .screened .ringing .dest) [])) = .double := by
  decide +kernel
theorem test_divert_failed_waits_in_warning :
    (after (.divertResult 256 1) (away (rec0 256 .diverting))).call 256 =
      some { rec0 256 .queued with divertFailed := true, warning := true } := by decide +kernel

/-! ## Witnesses: directory, configuration, RESTART -/

theorem witness_StationAttrWritesBothFlags :
    LinkTakes runs ∧ (6 : Nat).testBit 0 = false ∧ (6 : Nat).testBit 1 = true := by decide

theorem witness_StationStateWritesTheState :
    let s := camped40 [257] (some 256) runs
    LinkTakes s ∧ readStationState 0 = some .idle ∧ (s.station 40).ring.isSome = true ∧
      readStationState 4 = some .out ∧ (s.station 4095).campList = [] := by decide +kernel

/-- Call 256 camped on station 40, alone; the desk is its home. -/
def camping : State := camped40 [256] none (away (awayRec .camped false))

theorem witness_StationUpdatesServeTheCampList :
    LinkTakes camping ∧ (camping.station 40).campList = [256] ∧ (camping.station 40).ring = none ∧
      camping.call 256 = some (awayRec .camped false) ∧ readStationState 3 = some .dnd ∧
      Names 256 (awayRec .camped false) camping ∧ (awayRec .camped false).home = some 1 ∧ 1 ∈ positionNumbers ∧
      (camping.pos 1).avail ≠ .signedOut ∧ (camping.pos 1).freeLoops = [1, 2, 3, 4, 5, 6] ∧
      (awayRec .camped false).recallCount + 1 < camping.recallLimit := by decide +kernel

/-- Calls 256 and 257 camped on station 40, in that order; the desk is their home. -/
def twoCampers : State :=
  withCall { awayRec .camped false with ref := 257, originNum := 1, arrivalSeq := 2 }
    (camped40 [256, 257] none (away (awayRec .camped false)))

theorem witness_StationUpdatesServeTheCampList_several :
    LinkTakes twoCampers ∧ readStationState 3 = some .dnd ∧ (twoCampers.station 40).campList.Nodup ∧
      (∀ r ∈ (twoCampers.station 40).campList, ∃ c p, Live r c twoCampers ∧ c.state = .camped ∧ c.loop = none ∧
        c.home = some p ∧ p ∈ positionNumbers) ∧
      twoCampers.arrivalCounter + (twoCampers.station 40).campList.length ≤ 4294967295 ∧ twoCampers.moments = [] := by
  refine ⟨by decide +kernel, rfl, by decide +kernel, fun r hr => ?_, by decide +kernel, rfl⟩
  have : r = 256 ∨ r = 257 := by
    have e : (twoCampers.station 40).campList = [256, 257] := by decide +kernel
    simpa [e] using hr
  rcases this with rfl | rfl
  · exact ⟨awayRec .camped false, 1, ⟨by decide +kernel, rfl⟩, rfl, rfl, rfl, by decide⟩
  · exact ⟨{ awayRec .camped false with ref := 257, originNum := 1, arrivalSeq := 2 }, 1, ⟨by decide +kernel, rfl⟩, rfl,
      rfl, rfl, by decide⟩

theorem test_the_oldest_camper_takes_the_lowest_loop :
    let t := after (.stationState 40 3) twoCampers
    (t.pos 1).loopAt 1 = some 256 ∧ (t.pos 1).loopAt 2 = some 257 ∧
      (t.pos 1).buffer = [.lamp 1 .fast, .tone .notice, .lamp 2 .fast, .tone .notice] := by decide +kernel

/-- A block update with these codes left, at station 40. -/
def blocking (codes : List Nat) : State := { runs with block := some ⟨40, codes.length, 40, codes⟩ }

theorem witness_StationBlockUpdatesItsStations : LinkTakes runs ∧ (∀ x ∈ List.replicate 32 4, x ≤ 4) ∧
    (∃ x ∈ [0, 5], 4 < x) ∧ Admits (blocking [3, 4]) ∧ (blocking [3, 4]).block = some ⟨40, 2, 40, [3, 4]⟩ ∧
    readStationState 3 = some .dnd ∧ ((blocking [3, 4]).station 40).campList = [] ∧ Admits (blocking [4]) ∧
    (blocking [4]).block = some ⟨40, 1, 40, [4]⟩ ∧ readStationState 4 = some .out := by decide +kernel

theorem witness_StationBlockUpdatesItsStations_step :
    let s := { twoCampers with block := some ⟨40, 1, 40, [3]⟩ }
    Admits s ∧ LinkTakes { s with block := none } ∧ s.block = some ⟨40, 1, 40, [3]⟩ ∧ 3 ≤ 4 ∧ 40 ≤ 4095 := by
  decide +kernel

theorem test_block_ends_at_4095 :
    (after (.stationBlock 4090 8 [0, 0, 0, 0, 0, 1, 1, 1]) runs).block = some ⟨4090, 6, 4090, [0, 0, 0, 0, 0, 1]⟩ := by
  decide +kernel

theorem witness_ConfigureWritesClampedItems : LinkTakes runs ∧ 7 ≤ 7 := by decide

theorem test_configure_class_clamps :
    (after (.configureClass 7 4096 255 65535) runs).cls 7 = ⟨4095, 255, 65535⟩ := by decide +kernel

theorem witness_ConfigureWritesClampedItems_limits : LinkTakes runs ∧ CountsWithinLimits runs := by
  refine ⟨by decide, by decide, by decide, by decide, fun n c h => ?_⟩
  simp [State.slot, runs, State.reset, Tab.get, slotReset] at h

theorem witness_ConfigureGroupAndHunt : LinkTakes runs ∧ 3 ≤ 3 ∧ readOfferMode 1 = some .offer ∧
    readPolicy 2 = some .select ∧ readSweepPolicy 1 = some .sweepFirst ∧ (4095 ≤ 4095 ∨ 4095 = 65535) ∧
    (65535 ≤ 4095 ∨ 65535 = 65535) ∧ (runs.group 3).offerMode = .pull ∧ 15 ≤ 15 ∧ readDir 1 = some .down ∧
    readHuntMode 1 = some .circular := by decide

theorem witness_ConfigurePositionWritesThePosition :
    let s := withPos 1 desk (withPos 8 { positionReset 8 with present := true } runs)
    LinkTakes s ∧ 8 ∈ positionNumbers ∧ readFlag 1 = some true ∧ readFlag 0 = some false ∧
      (s.pos 8).enabled = true ∧ (s.pos 8).group = 0 ∧ 3 ≠ (s.pos 8).group ∧ (s.pos 8).avail = .signedOut ∧
      (s.pos 8).releaseList = [] ∧ (s.pos 1).avail ≠ .signedOut ∧ s.moments = [] := by decide +kernel

theorem witness_ConfigureBadValuesWriteNothing : LinkTakes runs ∧ 7 < 8 ∧ 3 < 4 ∧ (4095 < 4096 ∧ 4096 ≠ 65535) ∧
    8 < 9 ∧ 15 < 16 ∧ (0 = 0 ∧ 40 < 41) ∧ (encodeRequest (.configureUnknownItem 0 255)).isSome = true := by decide

theorem witness_RestartClearsTheCalls : LinkTakes offered := by decide +kernel

theorem test_restart_leaves_its_answer :
    (after .restart offered).outbound = [.answer .restart .ok 0 0 .none] ∧ ((after .restart offered).slot 0).gen = 1 ∧
    ((after .restart offered).pos 1).buffer.length = 10 := by decide +kernel

/-! ## Witnesses: supervision, queues, night service -/

theorem witness_AdmittedEventsWaitForTheReserve :
    let s := manyOut 113 (withCall (due .queue (rec0 256 .queued))
      (withPos 1 { desk with releaseList := [1], intake := [.key 15 0] }
        (withGroup { nightGroup [256] with sweep := .active 5000 } (scanning 0 1 (blocking [1])))))
    s.phase ≠ .inReset ∧ s.reserveFree = false ∧ Waiting.scan ∉ s.waiting ∧ AdmittedAs .scanStep .scan s ∧
      AdmittedAs .blockUpdateStep .block s ∧ AdmittedAs (.sweepStep 0) (.sweep 0 5000) s ∧
      AdmittedAs (.releaseStep 1) (.release 1) s ∧ AdmittedAs (.signOut 1) (.key 1) s ∧
      AdmittedAs (.queueExpiry 0) (.expiry 256 ⟨.queue, 4000, 1000⟩) s := by
  refine ⟨by decide +kernel, by decide +kernel, by decide, .inl ⟨rfl, by decide +kernel, rfl⟩,
    .inr (.inl ⟨rfl, by decide +kernel, rfl⟩), .inr (.inr (.inl ⟨0, 5000, rfl, by decide +kernel, by decide +kernel, rfl⟩)),
    .inr (.inr (.inr (.inl ⟨1, rfl, by decide +kernel, rfl⟩))),
    .inr (.inr (.inr (.inr (.inl ⟨1, ⟨15, 0, by decide +kernel, by decide⟩, rfl⟩)))), .inr (.inr (.inr (.inr (.inr
      ⟨0, due .queue (rec0 256 .queued), ⟨.queue, 4000, 1000⟩, by decide, by decide +kernel, by decide, rfl,
        by decide +kernel, rfl⟩))))⟩

/-- Call 256 QUEUED with a deadline due, alone in its group's queue. -/
def queuedDue (kind : DeadlineKind) : State :=
  withCall (due kind (rec0 256 .queued)) (withGroup { nightGroup [256] with overflow := some 9 } runs)

theorem witness_QueueExpiryEntersWarning : Admits (queuedDue .queue) ∧
    Due 0 .queue (due .queue (rec0 256 .queued)) (queuedDue .queue) ∧
    (due .queue (rec0 256 .queued)).nightBound = false ∧
    (due .queue (rec0 256 .queued)).ref ∈ ((queuedDue .queue).group 0).queue := by decide +kernel

/-- Call `c` of reference 256 offered at position 1. -/
def offeredAs (c : CallRecord) : State := withCall c offered

/-- The hypotheses of the OFFER clause at a state. -/
abbrev offerDue (c : CallRecord) : Prop :=
  Admits (offeredAs c) ∧ Due 0 .offer c (offeredAs c) ∧ c.state = .offered ∧ ((offeredAs c).pos 1).offer = some c.ref ∧
    ∀ q ∈ positionNumbers, q ≠ 1 → ((offeredAs c).pos q).offer ≠ some c.ref

theorem witness_WarningAndOfferExpiries :
    (let c := due .warning (rec0 256 .queued)
     Admits (queuedDue .warning) ∧ Due 0 .warning c (queuedDue .warning) ∧ c.state = .queued ∧
      ((queuedDue .warning).group 0).overflow = some 9 ∧ c.divertFailed = false ∧
      ∀ r ∈ ((queuedDue .warning).group 0).queue, r = c.ref) ∧
    (let c := { due .warning (rec0 256 .queued) with divertFailed := true }
     let s := withCall c (queuedDue .warning)
     Admits s ∧ Due 0 .warning c s ∧ c.divertFailed = true) := by decide +kernel

theorem witness_WarningAndOfferExpiries_offer :
    (let c := due .offer (rec0 256 .offered)
     offerDue c ∧ c.divertFailed = false ∧ c.warning = false ∧ ((offeredAs c).cls c.queueClass).overflow = 0) ∧
    offerDue { due .offer (rec0 256 .offered) with divertFailed := true } ∧
    offerDue { due .offer (rec0 256 .offered) with warning := true } ∧
    (let c := { due .offer (rec0 256 .offered) with queueClass := 2 }
     offerDue c ∧ (offeredAs c).timeCount < c.enqueueTime + ((offeredAs c).cls c.queueClass).overflow) ∧
    (let c := { due .offer (rec0 256 .offered) with queueClass := 2, enqueueTime := 4100 }
     offerDue c ∧ c.enqueueTime + ((offeredAs c).cls c.queueClass).overflow ≤ (offeredAs c).timeCount ∧
      ((offeredAs c).cls c.queueClass).overflow ≠ 0) := by
  refine ⟨?_, ?_, ?_, ?_, ?_⟩ <;> decide +kernel

theorem witness_HoldNoAnswerAndRecallRingExpiries :
    (let c := onLoop 2 (due .hold (rec0 256 .held))
     let s := parked (due .hold (rec0 256 .held))
     Admits s ∧ Due 0 .hold c s ∧ c.home = some 1 ∧ c.loop = some 2 ∧ (s.group 0).overflow = none) ∧
    (let c := { onLoop 2 (due .hold (rec0 256 .held)) with recallCount := 2 }
     let s := withGroup { dayGroup [] with overflow := some 9 } (withCall c (parked (rec0 256 .held)))
     Admits s ∧ Due 0 .hold c s ∧ c.recallCount + 1 = s.recallLimit ∧ (s.group (s.pos 1).group).overflow = some 9 ∧
      (s.pos 1).talkLoop ≠ some 2) ∧
    (let c := due .noAnswer (extRec .screened .ringing .dest)
     let s := talks c []
     Admits s ∧ Due 0 .noAnswer c s ∧ OnTalkPath 1 1 c s) := by decide +kernel

theorem witness_HoldNoAnswerAndRecallRingExpiries_ring :
    let c := onLoop 2 (due .recallRing (rec0 256 .recalling))
    let s := parked (due .recallRing (rec0 256 .recalling))
    let u := withGroup (nightGroup []) s
    Admits s ∧ Due 0 .recallRing c s ∧ c.home = some 1 ∧ c.loop = some 2 ∧ (s.pos 1).talkLoop ≠ some 2 ∧
      s.arrivalCounter < 4294967295 ∧ c.divertFailed = false ∧ (s.group 0).mode = .day ∧ Admits u ∧
      Due 0 .recallRing c u ∧ (u.group 0).mode = .night ∧ (u.group 0).night = some 7 := by decide +kernel

theorem test_recall_in_place_draws_a_notice_tone :
    ((after (.holdExpiry 0) (parked (due .hold (rec0 256 .held)))).pos 1).buffer = [.lamp 2 .fast, .tone .notice] := by
  decide +kernel

/-- Call 256 away, its camp time past where it rings from camp. -/
def lateRec : CallRecord := { awayRec .ringingAway true with campStart := some 4100 }

/-- The answer that goes ahead of the orders of a RING_RESULT at call 256. -/
def answered (code : Nat) : List Msg := [.answer .ringResult .ok 256 code .none]

theorem witness_RecallsLandOnTheHomePosition :
    let s := away (awayRec .ringingAway false)
    Admits s ∧ (awayRec .ringingAway false).home = some 1 ∧ 1 ∈ positionNumbers ∧ (s.pos 1).avail ≠ .signedOut ∧
      (s.pos 1).freeLoops = 1 :: [2, 3, 4, 5, 6] ∧ (s.group (s.pos 1).group).overflow = none ∧
      RecalledBy (.ringResult 256 7 4) 0 40 (awayRec .ringingAway false) answered none (s.station 40) s := by
  refine ⟨by decide, rfl, by decide, by decide, by decide +kernel, by decide, by decide, rfl, rfl, rfl, .inl ⟨by decide,
    by decide, rfl, .inr rfl, rfl, .inl ⟨rfl, .inl rfl, rfl, rfl⟩⟩⟩

theorem witness_RecallsLandOnTheHomePosition_busy :
    let s := camped40 [257, 258, 259] none (away (awayRec .ringingAway false))
    let u := camped40 [] (some 256) (away lateRec)
    RecalledBy (.ringResult 256 7 3) 0 40 (awayRec .ringingAway false) answered none (s.station 40) s ∧
      RecalledBy (.ringResult 256 7 3) 0 40 lateRec answered none { u.station 40 with ring := none } u ∧
      RecalledBy (.ringResult 256 7 5) 0 40 lateRec answered none { u.station 40 with ring := none } u := by
  refine ⟨⟨by decide, rfl, rfl, rfl, .inl ⟨by decide, by decide, rfl, .inr rfl, rfl, .inr (.inl ⟨rfl, rfl, by decide, rfl,
      rfl⟩)⟩⟩, ⟨by decide, rfl, rfl, rfl, .inl ⟨by decide, by decide, rfl, .inr rfl, rfl, .inr (.inr (.inr ⟨4100, rfl, rfl, rfl,
        by decide, rfl, rfl⟩))⟩⟩, ⟨by decide, rfl, rfl, rfl, .inl ⟨by decide, by decide, rfl, .inr rfl, rfl,
          .inr (.inr (.inl ⟨rfl, .inr rfl, rfl, rfl⟩))⟩⟩⟩

theorem witness_RecallsLandOnTheHomePosition_expiries :
    let a := due .noAnswer (awayRec .ringingAway false)
    let b := due .noAnswer (awayRec .ringingAway true)
    let c := due .camp (awayRec .camped false)
    RecalledBy (.noAnswerExpiryRingingAway 0) 0 40 a (fun _ => [.drop 256 7]) none ((away a).station 40) (away a) ∧
      RecalledBy (.campRingNoAnswerExpiry 0) 0 40 b (fun _ => [.drop 256 7]) none
        { (away b).station 40 with ring := none } (away b) ∧
      RecalledBy (.campExpiry 0) 0 40 c (fun _ => []) none
        { (away c).station 40 with campList := ((away c).station 40).campList.filter (fun x => x ≠ 256) } (away c) := by
  refine ⟨⟨by decide, rfl, rfl, rfl, .inr (.inl ⟨by decide, rfl, rfl, rfl, rfl, rfl, rfl⟩)⟩,
    ⟨by decide, rfl, rfl, rfl, .inr (.inr (.inl ⟨by decide, rfl, rfl, rfl, rfl, rfl, rfl⟩))⟩,
    ⟨by decide, rfl, rfl, rfl, .inr (.inr (.inr ⟨by decide, rfl, rfl, rfl, rfl, rfl⟩))⟩⟩

/-- Call 256 in camp-on with its CAMP deadline due and two recalls counted, the desk as given, group 0 as given. -/
def recallDue (q : Position) (r : GroupRecord) : State :=
  withPos 1 q (withGroup r (away { due .camp (awayRec .camped false) with recallCount := 2 }))

theorem witness_RecallsDivertAtTheLimitOrRequeue :
    let c := { due .camp (awayRec .camped false) with recallCount := 2 }
    let s := recallDue desk { dayGroup [] with overflow := some 9 }
    let u := recallDue { desk with avail := .signedOut } (dayGroup [])
    let v := recallDue { desk with avail := .signedOut } (nightGroup [])
    (Admits s ∧ RecalledBy (.campExpiry 0) 0 40 c (fun _ => []) none (s.station 40) s ∧ c.home = some 1 ∧
      c.divertFailed = false ∧ c.recallCount + 1 = s.recallLimit ∧ (s.group 0).overflow = some 9) ∧
    (Admits u ∧ RecalledBy (.campExpiry 0) 0 40 c (fun _ => []) none (u.station 40) u ∧ (u.group 0).overflow = none ∧
      (u.pos 1).avail = .signedOut ∧ u.arrivalCounter < 4294967295 ∧ (u.group 0).mode = .day) ∧
    Admits v ∧ RecalledBy (.campExpiry 0) 0 40 c (fun _ => []) none (v.station 40) v ∧ (v.group 0).mode = .night ∧
      (v.group 0).night = some 7 := by
  refine ⟨⟨by decide, ⟨by decide, rfl, rfl, rfl, .inr (.inr (.inr ⟨by decide, rfl, rfl, rfl, rfl, by decide⟩))⟩, rfl, rfl, by decide,
    by decide⟩, ⟨by decide, ⟨by decide, rfl, rfl, rfl, .inr (.inr (.inr ⟨by decide, rfl, rfl, rfl, rfl, by decide⟩))⟩, by decide,
    by decide, by decide, by decide⟩, by decide, ⟨by decide, rfl, rfl, rfl, .inr (.inr (.inr ⟨by decide, rfl, rfl, rfl, rfl,
    by decide⟩))⟩, by decide, by decide⟩

/-- The desk with every loop full. -/
def fullDesk : Position :=
  { desk with loops := [(1, some 1), (2, some 2), (3, some 3), (4, some 4), (5, some 5), (6, some 6)] }

theorem witness_RecallsDivertAtTheLimitOrRequeue_no_loop :
    ((recallDue fullDesk (dayGroup [])).pos 1).avail ≠ .signedOut ∧
      ((recallDue fullDesk (dayGroup [])).pos 1).freeLoops = [] := by decide +kernel

theorem test_recall_at_the_limit_is_diverted :
    (after (.campExpiry 0) (recallDue desk { dayGroup [] with overflow := some 9 })).outbound =
      [.divert 256 9 .recallLimit] := by decide +kernel

/-- Where every slot but `k` is as at hardware reset, the records are named if the one is. -/
theorem recordsNamed_of_one (s : State) (k : Nat) (v : Slot) (h : s.slots = [(k, v)]) (hg : v.gen ≤ 255)
    (hc : ∀ c, v.call = some c → k < 256 ∧ 1 ≤ v.gen ∧ c.ref = v.gen * 256 + k) : RecordsNamed s := by
  intro n
  by_cases e : k = n
  · subst e
    have : s.slot k = v := by simp [State.slot, h, Tab.get]
    rw [this]; exact ⟨hg, hc⟩
  · have : s.slot n = ⟨0, none⟩ := by simp [State.slot, h, Tab.get, e, slotReset]
    rw [this]; exact ⟨Nat.zero_le _, fun c hc => by simp at hc⟩

/-- The arrival sequence counter at its largest value, call 256 RECALLING with its deadline due. -/
def lastSequence : State :=
  { parked (due .recallRing (rec0 256 .recalling)) with arrivalCounter := 4294967295 }

theorem lastSequence_named : RecordsNamed lastSequence :=
  recordsNamed_of_one lastSequence 0 ⟨1, some (onLoop 2 (due .recallRing (rec0 256 .recalling)))⟩ (by decide +kernel) (by decide)
    (fun c h => by cases h; exact ⟨by decide, by decide, rfl⟩)

theorem witness_RenumberingKeepsTheOrder :
    RecordsNamed lastSequence ∧ 4294967295 ≤ lastSequence.arrivalCounter ∧ Admits lastSequence ∧
      Due 0 .recallRing (onLoop 2 (due .recallRing (rec0 256 .recalling))) lastSequence ∧ LinkTakes lastSequence ∧
      presentValuesOk 1 9 2 0 [] = true ∧
      (∀ m < 256, ∀ c ∈ (lastSequence.slot m).call, ¬(c.originKind = .station ∧ c.originNum = 9)) ∧
      (lastSequence.slot 1).call = none ∧ ∀ m < 1, (lastSequence.slot m).call ≠ none :=
  ⟨lastSequence_named, by decide, by decide, by decide, by decide, by decide, by decide +kernel, by decide, by decide⟩

theorem test_renumbering :
    let s := withCall { rec0 256 .held with arrivalSeq := 4000000000 }
      { withCall { rec0 258 .held with arrivalSeq := 70 } runs with arrivalCounter := 4294967295 }
    let t := after (.present 1 9 2 0 []) s
    t.arrivalCounter = 3 ∧ ((t.call 256).map CallRecord.arrivalSeq, (t.call 257).map CallRecord.arrivalSeq,
      (t.call 258).map CallRecord.arrivalSeq) = (some 2, some 3, some 1) := by decide +kernel
/-- Two queued calls in group 0, the second with bypass count 3, the limit. -/
def twoQueued : State :=
  withCall (rec0 256 .queued) (withCall { rec0 257 .queued with bypass := 3 }
    (withGroup { dayGroup [256, 257] with offerMode := .offer, pairingDue := true } runs))

theorem witness_SelectionIsForcedThenByScore : selectableCalls 0 twoQueued ≠ [] ∧ 1 ≤ twoQueued.bypassLimit ∧
    (∃ d ∈ selectableCalls 0 twoQueued, d.bypass = twoQueued.bypassLimit) ∧ selectableCalls 1 twoQueued = [] ∧
    ({ twoQueued with bypassLimit := 0 } : State).bypassLimit = 0 := by decide +kernel

theorem test_score_saturates : score 3000 255 0 65535 = 4095 ∧ score 600 20 4 100 = 725 := by decide

theorem test_forced_call_goes_first : (selectCall 0 twoQueued).map CallRecord.ref = some 257 := by decide +kernel

theorem witness_PairingOffersTheSelectedCall :
    let s := withPos 1 desk twoQueued
    let c := { rec0 257 .queued with bypass := 3 }
    s.phase ≠ .inReset ∧ (s.group 0).offerMode = .offer ∧ (s.group 0).pairingDue = true ∧ offerable 0 1 s = true ∧
      (∀ q ∈ positionNumbers, q ≠ 1 → offerable 0 q s = false) ∧ selectCall 0 s = some c ∧ s.call c.ref = some c ∧
      (∀ p ∈ positionNumbers, offerable 0 p twoQueued = false) ∧
      (withGroup { dayGroup [] with offerMode := .offer } runs).group 0 = { dayGroup [] with offerMode := .offer } := by
  decide +kernel

/-- Two desks, the one at position 2 idle longer. -/
def twoDesks (s : State) : State := withPos 1 { desk with idleSince := 400 } (withPos 2 { desk with idleSince := 300 } s)

/-- Call 256 alone in an OFFER group's queue with a pairing due. -/
def oneQueued : State :=
  withCall (rec0 256 .queued) (withGroup { dayGroup [256] with offerMode := .offer, pairingDue := true } runs)

theorem witness_PairingOffersTheSelectedCall_two_desks :
    let s := twoDesks oneQueued
    offerable 0 1 s = true ∧ offerable 0 2 s = true ∧ (s.pos 2).idleSince < (s.pos 1).idleSince ∧
      (∀ q ∈ positionNumbers, q ≠ 2 → offerable 0 q s = true →
        (s.pos 2).idleSince < (s.pos q).idleSince ∨ ((s.pos 2).idleSince = (s.pos q).idleSince ∧ 2 < q)) ∧
      selectCall 0 s = some (rec0 256 .queued) ∧ selectableCalls 0 s = [rec0 256 .queued] ∧ 256 ∈ (s.group 0).queue := by
  decide +kernel

theorem witness_PairingOffersTheSelectedCall_named : RecordsNamed (twoDesks oneQueued) :=
  recordsNamed_of_one _ 0 ⟨1, some (rec0 256 .queued)⟩ (by decide +kernel) (by decide)
    (fun c h => by cases h; exact ⟨by decide, by decide, rfl⟩)

theorem test_pairing_offers_to_the_longest_idle_first :
    let t := after (.pairing 0) (twoDesks twoQueued)
    (t.pos 2).offer = some 257 ∧ (t.pos 1).offer = some 256 := by decide +kernel

/-- Group 0 NIGHT with a sweep step due and two night-bound calls. -/
def sweeping : State :=
  withCall { rec0 256 .queued with nightBound := true } (withCall { rec0 257 .queued with nightBound := true }
    (withGroup { nightGroup [257, 256] with sweep := .active 5000 } runs))

theorem witness_SweepStepDivertsTheOldest :
    let c := { rec0 256 .queued with nightBound := true }
    Admits sweeping ∧ (sweeping.group 0).sweep = .active 5000 ∧ 5000 ≤ sweeping.timeCount ∧
      (sweeping.group 0).night = some 7 ∧ sweeping.call c.ref = some c ∧ c.ref ∈ (sweeping.group 0).queue ∧
      (∀ r ∈ (sweeping.group 0).queue, r ≠ c.ref → ∀ d ∈ sweeping.call r, d.nightBound = true →
        c.arrivalSeq < d.arrivalSeq) ∧
      (withGroup { groupReset 0 with sweep := .active 5000 } runs).group 0 =
        { groupReset 0 with sweep := .active 5000 } := by decide +kernel

theorem test_sweep_step : (after (.sweepStep 0) sweeping).outbound = [.divert 256 7 .night] ∧
    ((after (.sweepStep 0) sweeping).group 0).sweep = .active 5005 := by decide +kernel

theorem test_sweep_step_waits_behind_the_events_before_it :
    (after (.sweepStep 0) { manyOut 113 sweeping with waiting := [.sweep 0 4000, .scan] }).waiting =
      [.sweep 0 4000, .scan, .sweep 0 5000] := by decide +kernel

theorem test_read_admits_in_order_while_the_reserve_lasts :
    let s : State := { manyOut 113 sweeping with waiting := [.sweep 0 4000, .sweep 0 5000, .scan] }
    (after (.read 4) s).waiting = [.scan] ∧ (after (.read 4) s).outbound.length = 113 := by decide +kernel

/-- Position 1 signed out, to release loop 1 and its call. -/
def releasing (c : CallRecord) (talk : Option Nat) : State :=
  withCall c (withPos 1 { desk.setLoop 1 (some 256) with avail := .signedOut, talkLoop := talk, releaseList := [1] }
    (withGroup (groupReset 0) runs))

theorem witness_ReleaseStepMovesTheCall :
    (let c := onLoop 1 (rec0 256 .held)
     let s := releasing c none
     Admits s ∧ 1 ∈ positionNumbers ∧ (s.pos 1).releaseList = [1] ∧ (s.pos 1).avail = .signedOut ∧
      (s.pos 1).loopAt 1 = some c.ref ∧ s.call c.ref = some c ∧ c.home = some 1 ∧ c.loop = some 1 ∧
      s.arrivalCounter < 4294967295 ∧ c.divertFailed = false ∧ (s.group 0).night = none ∧ (s.group 0).overflow = none ∧
      LeavesByRelease c [] true 1 (s.pos 1)) ∧
    (let c := onLoop 1 (rec0 256 .recalling)
     (releasing c none).call c.ref = some c ∧ LeavesByRelease c [] false 1 ((releasing c none).pos 1)) ∧
    (let s := releasing talkRec (some 1)
     Admits s ∧ s.call talkRec.ref = some talkRec ∧ LeavesByRelease talkRec [.hold 256] true 1 (s.pos 1)) ∧
    (let c := extRec .screened .ringing .dest
     let s := releasing c (some 1)
     s.call c.ref = some c ∧ LeavesByRelease c [.drop 256 7, .hold 256] true 1 (s.pos 1)) ∧
    (let c := extRec .blind .pending .dest
     let s := releasing c (some 1)
     Admits s ∧ OnTalkPath 1 1 c s ∧ c.state = .extending ∧ c.mode = .blind ∧ c.progress = some .pending) ∧
    (let s := withPos 1 { desk with avail := .signedOut, releaseList := [6] } runs
     Admits s ∧ (s.pos 1).releaseList = [6] ∧ (s.pos 1).loopAt 6 = none) := by
  refine ⟨?_, ?_, ?_, ?_, ?_, ?_⟩ <;> decide +kernel

theorem witness_ReleaseStepMovesTheCall_diverts :
    (let c := { talkRec with recallCount := 2 }
     let s := withGroup { groupReset 0 with overflow := some 9 } (releasing c (some 1))
     Admits s ∧ s.call c.ref = some c ∧ LeavesByRelease c [.hold 256] true 1 (s.pos 1) ∧
      c.recallCount + 1 = s.recallLimit ∧ (s.group 0).overflow = some 9) ∧
    (let s := withGroup (nightGroup []) (releasing (onLoop 1 (rec0 256 .recalling)) none)
     Admits s ∧ s.call 256 = some (onLoop 1 (rec0 256 .recalling)) ∧ s.arrivalCounter < 4294967295 ∧
      (s.group 0).mode = .night ∧ (s.group 0).night = some 7) := by decide +kernel

/-! ## Witnesses: the console bus -/

/-- Position 1 next in the cycle, with a buffer. -/
def polling (buffer : List ConMsg) : State :=
  { withPos 1 { desk with buffer := buffer } runs with toPoll := [1, 2] }

theorem witness_PollsCarryTheHeadMessage : runs.phase = .running ∧ runs.toPoll = [] ∧ runs.exchange = none ∧
    (polling []).exchange = none ∧ (polling []).toPoll = [1, 2] ∧ ((polling []).pos 1).buffer = [] ∧
    ((polling [.tone .error]).pos 1).buffer = [.tone .error] ∧ (polling []).outbound.length ≤ 112 := by decide +kernel

/-- An exchange at position 1 that carried a message. -/
def exchanging (q : Position) : State := { withPos 1 q runs with exchange := some ⟨1, true, true, false⟩ }

theorem witness_RepliesAndMissedPolls :
    (exchanging desk).phase = .running ∧ (exchanging desk).exchange = some ⟨1, true, true, false⟩ ∧
      1 ∈ positionNumbers ∧ ((exchanging desk).pos 1).present = true ∧
      ((exchanging { desk with present := false, missed := 3 }).pos 1).present = false ∧
      ((exchanging { desk with missed := 1 }).pos 1).missed < 2 := by decide +kernel

theorem test_poll_frame_of_a_tone :
    let bus := (after (.poll 1) (polling [.tone .error])).bus
    bus.take 1 = [0x01] ∧ (bus.drop 2).take 3 = [0x02, 0x03, 0x01] ∧ bus.length = 6 := by decide +kernel

theorem test_poll_control_bits (draw : Nat) : pollControl draw true false true false % 16 = 0x05 := by
  rw [pollControl_stated]; decide

theorem witness_LeavingEventsSignThePositionOut :
    (let s := keyed (.key 15 0)
     1 ∈ positionNumbers ∧ (s.pos 1).avail ≠ .signedOut ∧ (s.pos 1).offer = none ∧ Admits s ∧
      headEvent 1 s = some (.key 15 0) ∧ (s.pos 1).talkLoop = none ∧
      (∀ o ∈ positionNumbers, o ≠ 1 → (s.pos o).enabled = true → (s.pos o).group = 0 → (s.pos o).avail = .signedOut)) ∧
    (let s := exchanging { desk with missed := 2 }
     s.phase = .running ∧ (s.pos 1).present = true ∧ 2 ≤ (s.pos 1).missed ∧ (s.pos 1).offer = none) ∧
    (let s := withPos 2 desk (keyed (.key 15 0))
     (s.pos 2).enabled = true ∧ (s.pos 2).group = 0 ∧ (s.pos 2).avail ≠ .signedOut) ∧
    (let s := withCall (rec0 256 .queued) (withGroup { nightGroup [256] with mode := .day } (keyed (.key 15 0)))
     Admits s ∧ (s.group 0).night ≠ none ∧ (s.group 0).sweep = .idle ∧
      ∃ r ∈ (s.group 0).queue, (s.call r).any (fun d => d.ref == r && !d.divertFailed) = true) := by decide +kernel

theorem witness_LeavingEventsSignThePositionOut_offer :
    (let s := withPos 1 { desk with offer := some 256, intake := [.key 15 0] } offered
     1 ∈ positionNumbers ∧ (s.pos 1).avail ≠ .signedOut ∧ (s.pos 1).offer = some 256 ∧ (s.pos 1).talkLoop = none ∧
      s.call 256 = some (rec0 256 .offered) ∧ (rec0 256 .offered).nightBound = false ∧ (rec0 256 .offered).group = 0 ∧
      Admits s ∧ headEvent 1 s = some (.key 15 0) ∧ s.moments = [] ∧
      (∀ o ∈ positionNumbers, o ≠ 1 → (s.pos o).enabled = true → (s.pos o).group = 0 → (s.pos o).avail = .signedOut) ∧
      ((withGroup { nightGroup [] with mode := .day } s).group 0).night ≠ none) ∧
    (let s := { withPos 1 { desk with offer := some 256, missed := 2 } offered with exchange := some ⟨1, false, false, false⟩ }
     s.phase = .running ∧ s.exchange = some ⟨1, false, false, false⟩ ∧ (s.pos 1).present = true ∧
      2 ≤ (s.pos 1).missed ∧ (s.pos 1).offer = some 256) ∧
    (let s := exchanging { desk with avail := .signedOut, missed := 2 }
     s.phase = .running ∧ s.exchange = some ⟨1, true, true, false⟩ ∧ (s.pos 1).present = true ∧ 2 ≤ (s.pos 1).missed ∧
      (s.pos 1).avail = .signedOut) := by decide +kernel

theorem test_a_withdrawn_offer_is_marked_at_night_entry :
    let s := withPos 1 { desk with offer := some 256, intake := [.key 15 0] }
      (withGroup { nightGroup [] with mode := .day } offered)
    ((after (.signOut 1) s).call 256).map (fun c => (c.state, c.nightBound)) = some (.queued, true) ∧
      ((after (.signOut 1) s).group 0).sweep = .active 5000 ∧
      ((after (.signOut 1) s).pos 1).buffer = [.availability .signedOut, .lamp 7 .dark] := by decide +kernel

theorem witness_EventMessagesArePlaced : 1 ∈ positionNumbers ∧ (runs.pos 1).present = false ∧
    ((withPos 1 desk runs).pos 1).present = true ∧
    ((((withPos 1 desk runs).note 1).tone 1 .error).moments.filter (fun k => k.pos = 1)).length = 2 := by decide +kernel

/-! ## Witnesses: keys -/

theorem witness_RefusedKeysDrawOneErrorTone :
    (let s := withPos 1 { desk with avail := .signedOut, releaseList := [1], intake := [.key 14 0] } runs
     Admits s ∧ (s.pos 1).avail = .signedOut ∧ headEvent 1 s = some (.key 14 0) ∧ (s.pos 1).releaseList ≠ []) ∧
    (let s := keyed (.key 2 7)
     Admits s ∧ (s.pos 1).avail = .ready ∧ headEvent 1 s = some (.key 2 7) ∧ 6 < 7 ∧ (s.pos 1).talkLoop = none ∧
      (s.pos 1).present = true ∧ s.moments = [] ∧ (s.pos 1).buffer.length < 16) ∧
    (let s := keyed (.key 2 6)
     headEvent 1 s = some (.key 2 6) ∧ (s.pos 1).loopAt 6 = none) ∧
    headEvent 1 (keyed (.key 8 16)) = some (.key 8 16) ∧ headEvent 1 (keyed (.key 16 0)) = some (.key 16 0) ∧
    headEvent 1 (keyed (.dial 4096)) = some (.dial 4096) ∧ headEvent 1 (keyed (.key 12 0)) = some (.key 12 0) ∧
    (let s := talks talkRec [.key 15 0]
     headEvent 1 s = some (.key 15 0) ∧ (s.pos 1).talkLoop ≠ none) ∧
    headEvent 1 (keyed (.key 11 0)) = some (.key 11 0) := by decide +kernel

theorem witness_RefusedKeysDrawOneErrorTone_keys :
    (let s := withPos 1 { desk with avail := .onBreak, intake := [.key 13 0] } runs
     Admits s ∧ headEvent 1 s = some (.key 13 0) ∧ (s.pos 1).avail ≠ .ready) ∧
    (let s := keyed (.key 2 0)
     headEvent 1 s = some (.key 2 0)) ∧
    (let s := withPos 1 { desk.setLoop 6 (some 257) with offer := some 256, intake := [.key 2 6] } offered
     Admits s ∧ headEvent 1 s = some (.key 2 6) ∧ (s.pos 1).talkLoop ≠ some 6 ∧ (s.pos 1).offer ≠ none) ∧
    (let s := withPos 1 { fullDesk with intake := [.key 1 0] } runs
     Admits s ∧ headEvent 1 s = some (.key 1 0) ∧ (s.pos 1).offer = none ∧ recallingLoop 1 s = none ∧
      (∀ l ∈ loopNumbers, (s.pos 1).loopAt l ≠ none) ∧ (s.pos 1).talkLoop = none) := by decide +kernel

theorem witness_RefusedKeysDrawOneErrorTone_talk_path :
    (let c := extRec .screened .ringing .dest
     ∀ e ∈ [ConEvent.key 1 0, .key 2 6, .key 3 0, .key 4 0, .key 5 0, .key 6 0, .key 7 0, .key 8 0, .key 10 0, .key 11 0],
      let s := talks c [e]
      Admits s ∧ headEvent 1 s = some e ∧ OnTalkPath 1 1 c s ∧ c.state = .extending ∧ c.mode = .screened ∧
        c.progress = some .ringing) ∧
    (∀ e ∈ [ConEvent.key 5 0, .key 6 0, .key 7 0, .key 9 0, .key 10 0, .key 11 0],
      let s := talks talkRec [e]
      Admits s ∧ headEvent 1 s = some e ∧ OnTalkPath 1 1 talkRec s ∧ (s.pos 1).dialled = none ∧
        talkRec.curDest = none ∧ talkRec.state = .talking) ∧
    (let c := extRec .screened .busy .source
     let s := camped40 [257, 258] (some 259) (talks c [.key 11 0])
     OnTalkPath 1 1 c s ∧ c.progress = some .busy ∧ c.curDest = some 40 ∧ 3 ≤ (s.station 40).occupancy) := by
  decide +kernel

theorem witness_RefusedKeysDrawOneErrorTone_allBusy :
    (let s := talks talkRec [.key 8 15]
     Admits s ∧ KeyAtHead 1 8 15 s ∧ (s.pos 1).avail ≠ .signedOut ∧ OnTalkPath 1 1 talkRec s ∧
      talkRec.state = .talking ∧ s.huntRange 15 = none ∧ (s.pos 1).present = true ∧ s.moments = [] ∧
      (s.pos 1).buffer.length + 2 ≤ 16) ∧
    (let s := (talks talkRec [.key 8 0]).setHunt 0 (some ⟨41, 40, .down, .circular, 40⟩)
     KeyAtHead 1 8 0 s ∧ s.huntRange 0 = some ⟨41, 40, .down, .circular, 40⟩ ∧ 40 ≤ 41 ∧
      (s.station 40).state ≠ .idle ∧ (s.station 41).state ≠ .idle) := by decide +kernel

theorem test_hunt_that_finds_none_is_all_busy :
    let t := after (.hunt 1 15) (talks talkRec [.key 8 15])
    (t.pos 1).notice = some .allBusy ∧ (t.pos 1).talkLoop = some 1 ∧ t.outbound = [] := by decide +kernel

theorem witness_AnswerTakesTheNextCall :
    (let s := withPos 1 { desk with offer := some 256, intake := [.key 1 0] } offered
     let c := rec0 256 .offered
     Admits s ∧ KeyAtHead 1 1 0 s ∧ (s.pos 1).avail ≠ .signedOut ∧ (s.pos 1).talkLoop = none ∧ s.call c.ref = some c ∧
      (s.pos 1).offer = some c.ref ∧ (s.pos 1).emptyLoops = 1 :: [2, 3, 4, 5, 6] ∧ s.moments = []) ∧
    (let c := onLoop 2 (rec0 256 .recalling)
     let s := withPos 1 { desk.setLoop 2 (some 256) with intake := [.key 1 0] } (parked (rec0 256 .recalling))
     Admits s ∧ KeyAtHead 1 1 0 s ∧ s.call c.ref = some c ∧ recallingLoop 1 s = some (2, c.ref) ∧ (s.pos 1).offer = none) ∧
    (let s := withPos 1 { desk with intake := [.key 1 0] } twoQueued
     let c := { rec0 257 .queued with bypass := 3 }
     Admits s ∧ KeyAtHead 1 1 0 s ∧ recallingLoop 1 s = none ∧ selectCall 0 s = some c ∧ s.call c.ref = some c ∧
      (s.pos 1).emptyLoops = 1 :: [2, 3, 4, 5, 6]) ∧
    (let s := keyed (.key 1 0)
     recallingLoop 1 s = none ∧ (s.pos 1).emptyLoops ≠ [] ∧ selectableCalls 0 s = [] ∧ s.moments = []) := by decide +kernel

theorem test_answer_pulls :
    (after (.answer 1) (withPos 1 { desk with intake := [.key 1 0] } twoQueued)).outbound = [.attach 257 1 .source] := by
  decide +kernel

theorem test_answer_ends_the_offer_last :
    let t := after (.answer 1) (withPos 1 { desk with offer := some 256, intake := [.key 1 0] } offered)
    (t.pos 1).buffer = [.lamp 1 .lit, .display (displayOf 1 t), .lamp 7 .dark] := by decide +kernel

/-- A talk call on loop 1, and call 257 HELD on loop 6. -/
def twoLoops (st : CallState) (intake : List ConEvent) : State :=
  withCall { rec0 257 st with home := some 1, loop := some 6 }
    (withPos 1 ((talkDesk intake).setLoop 6 (some 257)) (talks talkRec []))

theorem witness_LoopTakesTheCallOfTheLoop :
    (let s := talks talkRec [.key 2 1]
     Admits s ∧ KeyAtHead 1 2 1 s ∧ (s.pos 1).avail ≠ .signedOut ∧ (s.pos 1).talkLoop = some 1 ∧
      (s.pos 1).loopAt 1 ≠ none) ∧
    (let s := withPos 1 { desk.setLoop 2 (some 256) with intake := [.key 2 2] } (parked (rec0 256 .held))
     let c := onLoop 2 (rec0 256 .held)
     Admits s ∧ KeyAtHead 1 2 2 s ∧ (s.pos 1).talkLoop = none ∧ (s.pos 1).offer = none ∧
      (s.pos 1).loopAt 2 = some c.ref ∧ s.call c.ref = some c) ∧
    (let s := twoLoops .held [.key 2 6]
     let d := { rec0 257 .held with home := some 1, loop := some 6 }
     Admits s ∧ KeyAtHead 1 2 6 s ∧ (s.pos 1).offer = none ∧ OnTalkPath 1 1 talkRec s ∧
      (s.pos 1).loopAt 6 = some d.ref ∧ s.call d.ref = some d ∧ slotOf d.ref ≠ slotOf talkRec.ref ∧
      s.moments = [] ∧ 1 ∈ loopNumbers ∧ loopLamp 1 6 s ≠ .lit ∧ TalkPathCleared talkRec (some { talkRec with
        state := .held, talkSide := none, deadline := some ⟨.hold, 5000, 600⟩ }) [.hold 256] true 1 s) ∧
    (let s := twoLoops .recalling [.key 1 0]
     let d := { rec0 257 .recalling with home := some 1, loop := some 6 }
     Admits s ∧ KeyAtHead 1 1 0 s ∧ (s.pos 1).offer = none ∧
      recallingLoop 1 s = some (6, d.ref) ∧ OnTalkPath 1 1 talkRec s ∧ s.call d.ref = some d) := by
  refine ⟨?_, ?_, ?_, ?_⟩ <;> decide +kernel

theorem witness_LoopTakesTheCallOfTheLoop_extends :
    (let c := extRec .screened .answered .source
     let s := withCall c (twoLoops .held [.key 2 6])
     OnTalkPath 1 1 c s ∧ KeyAtHead 1 2 6 s ∧ (s.pos 1).offer = none ∧ (s.pos 1).loopAt 6 = some 257 ∧
      TalkPathCleared c none [.bridge 256] false 1 s) ∧
    (let c := extRec .blind .pending .dest
     let s := withCall c (twoLoops .recalling [.key 1 0])
     OnTalkPath 1 1 c s ∧ KeyAtHead 1 1 0 s ∧ recallingLoop 1 s = some (6, 257) ∧
      TalkPathCleared c (some { c with state := .ringingAway, loop := none, talkSide := none }) [] false 1 s) ∧
    (let c := extRec .screened .busy .source
     let s := withCall c (twoLoops .held [.key 2 6])
     OnTalkPath 1 1 c s ∧ KeyAtHead 1 2 6 s ∧
      TalkPathCleared c (some { c with
        state := .held, talkSide := none, progress := none, deadline := some ⟨.hold, 5000, 600⟩ }) [.hold 256] true 1 s) := by
  refine ⟨?_, ?_, ?_⟩ <;> decide +kernel

/-- An extend of call 256 on loop 1, call 257 alone in the queue. -/
def extendAndQueue (c : CallRecord) : State :=
  withCall (rec0 257 .queued) (withGroup (dayGroup [257]) (talks c [.key 1 0]))

theorem witness_LoopTakesTheCallOfTheLoop_pull :
    (let c := extRec .screened .answered .source
     let s := extendAndQueue c
     Admits s ∧ KeyAtHead 1 1 0 s ∧ (s.pos 1).avail ≠ .signedOut ∧ (s.pos 1).offer = none ∧ recallingLoop 1 s = none ∧
      selectCall (s.pos 1).group s = some (rec0 257 .queued) ∧ s.call 257 = some (rec0 257 .queued) ∧
      slotOf 257 ≠ slotOf c.ref ∧ OnTalkPath 1 1 c s ∧ TalkPathCleared c none [.bridge 256] false 1 s ∧
      1 ∈ loopNumbers ∧ ∀ m ∈ loopNumbers, ((s.pos 1).loopAt m = none ∨ (m = 1 ∧ false = false)) → 1 ≤ m) ∧
    (let s := extendAndQueue talkRec
     (s.pos 1).loopAt 2 = none ∧ s.moments = [] ∧ ∀ m ∈ loopNumbers, ((s.pos 1).loopAt m = none ∨ (m = 1 ∧ true = false)) → 2 ≤ m) := by
  refine ⟨?_, ?_⟩ <;> decide +kernel

theorem test_answer_bridges_an_answered_extend_first :
    (after (.answer 1) (extendAndQueue (extRec .screened .answered .source))).outbound =
      [.bridge 256, .attach 257 1 .source] ∧
    ((after (.answer 1) (extendAndQueue (extRec .screened .answered .source))).pos 1).loopAt 1 = some 257 := by
  decide +kernel

theorem witness_LoopTakesTheCallOfTheLoop_no_call :
    let s := talks talkRec [.key 1 0]
    let c := extRec .blind .pending .dest
    let u := talks c [.key 1 0]
    (Admits s ∧ (s.pos 1).avail ≠ .signedOut ∧ KeyAtHead 1 1 0 s ∧ (s.pos 1).offer = none ∧ recallingLoop 1 s = none ∧
      selectableCalls (s.pos 1).group s = [] ∧ OnTalkPath 1 1 talkRec s ∧ 1 ∈ loopNumbers ∧ (s.pos 1).emptyLoops ≠ [] ∧
      TalkPathCleared talkRec (some { talkRec with
        state := .held, talkSide := none, deadline := some ⟨.hold, 5000, 600⟩ }) [.hold 256] true 1 s) ∧
    OnTalkPath 1 1 c u ∧ selectableCalls (u.pos 1).group u = [] ∧
      TalkPathCleared c (some { c with state := .ringingAway, loop := none, talkSide := none }) [] false 1 u := by
  refine ⟨?_, ?_⟩ <;> decide +kernel

theorem test_answer_that_finds_no_call_empties_the_talk_path :
    let t := after (.answer 1) (talks talkRec [.key 1 0])
    (t.pos 1).talkLoop = none ∧ (t.pos 1).notice = some .noCall ∧ (t.pos 1).idleSince = 5000 ∧
      t.outbound = [.hold 256] := by decide +kernel

theorem test_hold_in_an_offer_group_calls_for_a_pairing :
    ((after (.hold 1) (withGroup { dayGroup [] with offerMode := .offer } (talks talkRec [.key 3 0]))).group 0).pairingDue =
      true := by decide +kernel

theorem witness_HoldReleaseAndDial :
    (let s := talks talkRec [.key 3 0]
     s.phase ≠ .inReset ∧ 1 ∈ positionNumbers ∧ (s.pos 1).avail ≠ .signedOut ∧ s.reserveFree = true ∧
      KeyAtHead 1 3 0 s ∧ OnTalkPath 1 1 talkRec s ∧ talkRec.state = .talking) ∧
    (let s := talks talkRec [.key 4 0]
     KeyAtHead 1 4 0 s ∧ OnTalkPath 1 1 talkRec s) ∧
    (let c := extRec .screened .answered .source
     KeyAtHead 1 4 0 (talks c [.key 4 0]) ∧ OnTalkPath 1 1 c (talks c [.key 4 0])) ∧
    (let c := extRec .blind .pending .dest
     KeyAtHead 1 4 0 (talks c [.key 4 0]) ∧ OnTalkPath 1 1 c (talks c [.key 4 0])) ∧
    (let c := extRec .screened .busy .source
     KeyAtHead 1 4 0 (talks c [.key 4 0]) ∧ OnTalkPath 1 1 c (talks c [.key 4 0])) ∧
    (let s := keyed (.key 4 0)
     KeyAtHead 1 4 0 s ∧ (s.pos 1).talkLoop = none) ∧
    (let s := manyOut 128 (keyed (.dial 4095))
     s.phase ≠ .inReset ∧ headEvent 1 s = some (.dial 4095)) := by
  refine ⟨?_, ?_, ?_, ?_, ?_, ?_, ?_⟩ <;> decide +kernel

theorem test_release_of_a_busy_extend_returns :
    ((after (.release 1) (talks (extRec .blind .busy .source) [.key 4 0])).call 256).map CallRecord.state =
      some .talking := by decide +kernel

/-- A talk call with station 40 as its current destination. -/
def dialRec : CallRecord := { talkRec with curDest := some 40 }

/-- A talk call with a dialled station and one key, and hunt range 15. -/
def dialling (code arg : Nat) (r : HuntRange) : State :=
  (withPos 1 { talkDesk [.key code arg] with dialled := some 40 }
    (talks dialRec [])).setHunt 15 (some r)

/-- A CIRCULAR range downwards whose pointer is at its last station. -/
def downRange : HuntRange := ⟨41, 40, .down, .circular, 40⟩

theorem witness_ExtendsStartFromTheTalkCall :
    let s := dialling 5 0 downRange
    Admits s ∧ 1 ∈ positionNumbers ∧ (s.pos 1).avail ≠ .signedOut ∧ OnTalkPath 1 1 dialRec s ∧
      dialRec.state = .talking ∧ KeyAtHead 1 5 0 s ∧ (s.pos 1).dialled = some 40 ∧ (s.station 40).campList = [] ∧
      (s.station 40).ring = none := by decide +kernel

theorem witness_ExtendsStartFromTheTalkCall_campers :
    let s := camped40 [257] none (dialling 6 0 downRange)
    KeyAtHead 1 6 0 s ∧ OnTalkPath 1 1 dialRec s ∧ (s.station 40).campList ≠ [] ∧
      KeyAtHead 1 7 0 (dialling 7 0 downRange) ∧ OnTalkPath 1 1 dialRec (dialling 7 0 downRange) := by decide +kernel

theorem witness_ExtendsStartFromTheTalkCall_hunt :
    let s := withStation 40 { stationReset 40 with state := .idle } (dialling 8 15 downRange)
    KeyAtHead 1 8 15 s ∧ OnTalkPath 1 1 dialRec s ∧ s.huntRange 15 = some downRange ∧ 1 < (41 - 40) + (40 - 41) + 1 ∧
      41 - ((41 - 40) + 1 + 1) % 2 = 40 ∧ (s.station 40).state = .idle ∧ ¬(s.station 41).state = .idle := by
  decide +kernel

theorem witness_ExtendsStartFromTheTalkCall_busy :
    let c := extRec .screened .busy .source
    let s := talks c [.key 7 0]
    Admits s ∧ OnTalkPath 1 1 c s ∧ c.state = .extending ∧ c.progress = some .busy ∧ c.talkSide = some .source ∧
      KeyAtHead 1 7 0 s ∧ c.curDest = some 40 := by decide +kernel

theorem test_retry_from_busy_rings_again :
    (after (.retry 1) (talks (extRec .screened .busy .source) [.key 7 0])).outbound = [.ring 256 40 8] := by decide +kernel

theorem test_circular_hunt_goes_past_its_pointer :
    let s := withStation 41 { stationReset 41 with state := .idle }
      (withStation 40 { stationReset 40 with state := .idle } (dialling 8 15 downRange))
    (after (.hunt 1 15) s).outbound = [.ring 256 41 1] ∧
      (after (.hunt 1 15) s).huntRange 15 = some { downRange with next := 41 } := by decide +kernel

theorem witness_CancelSwapAndCamp :
    (let c := extRec .blind .ringing .dest
     let s := talks c [.key 9 0]
     Admits s ∧ (s.pos 1).avail ≠ .signedOut ∧ OnTalkPath 1 1 c s ∧ c.state = .extending ∧ KeyAtHead 1 9 0 s) ∧
    (let c := extRec .screened .answered .dest
     let s := talks c [.key 10 0]
     OnTalkPath 1 1 c s ∧ KeyAtHead 1 10 0 s ∧ c.progress = some .answered ∧ c.talkSide = some .dest) ∧
    (let c := extRec .screened .busy .source
     let s := talks c [.key 10 0]
     OnTalkPath 1 1 c s ∧ KeyAtHead 1 10 0 s ∧ c.progress ≠ some .answered) ∧
    (let c := extRec .screened .busy .source
     let s := camped40 [257, 258] none (talks c [.key 11 0])
     Admits s ∧ OnTalkPath 1 1 c s ∧ KeyAtHead 1 11 0 s ∧ c.progress = some .busy ∧ c.curDest = some 40 ∧
      (s.station 40).campAllowed = true ∧ (s.station 40).occupancy < 3 ∧ poolOccupancy s < 64) := by decide +kernel

theorem test_camp_on_a_full_station_is_refused :
    let s := camped40 [257, 258] (some 259) (talks (extRec .screened .busy .source) [.key 11 0])
    (after (.camp 1) s).outbound = [] ∧ (after (.camp 1) s).call 256 = some (extRec .screened .busy .source) := by
  decide +kernel

theorem witness_AvailabilityKeys :
    (let s := withPos 1 { desk with avail := .signedOut, intake := [.key 14 0] }
      (withGroup { nightGroup [256, 257] with sweep := .active 5000, offerMode := .offer } sweeping)
     Admits s ∧ 1 ∈ positionNumbers ∧ KeyAtHead 1 14 0 s ∧ (s.pos 1).avail = .signedOut ∧ (s.pos 1).releaseList = [] ∧
      (s.group 0).mode = .night ∧ (s.group 0).sweep ≠ .idle ∧ (s.group 0).sweepPolicy = .staffFirst ∧
      (s.pos 1).enabled = true ∧ (s.pos 1).talkLoop = none ∧ (∀ l ∈ loopNumbers, (s.pos 1).loopAt l = none)) ∧
    (let s := withPos 1 { desk with avail := .onBreak, intake := [.key 12 0] } runs
     Admits s ∧ KeyAtHead 1 12 0 s ∧ (s.pos 1).avail = .onBreak) ∧
    (let s := withPos 1 { desk with offer := some 256, intake := [.key 13 0] } offered
     Admits s ∧ KeyAtHead 1 13 0 s ∧ (s.pos 1).avail = .ready ∧ (s.pos 1).offer = some 256 ∧
      s.call 256 = some (rec0 256 .offered) ∧ s.moments = []) := by decide +kernel

/-- The sweep of `sweeping` in a group as given, a SIGN_IN at the head of position 1's list. -/
def signingIn (r : GroupRecord) : State :=
  withPos 1 { desk with avail := .signedOut, intake := [.key 14 0] }
    (withGroup { r with sweep := .active 5000, queue := [256, 257] } sweeping)

theorem witness_AvailabilityKeys_sweep_stays :
    (let s := signingIn (nightGroup [])
     let u := withGroup { s.group 0 with sweepPolicy := .sweepFirst } s
     Admits u ∧ KeyAtHead 1 14 0 u ∧ (u.pos 1).avail = .signedOut ∧ (u.pos 1).releaseList = [] ∧
      (u.group 0).mode = .night ∧ (u.group 0).sweep ≠ .idle ∧ (u.group 0).sweepPolicy = .sweepFirst) ∧
    (let s := signingIn (dayGroup [])
     Admits s ∧ KeyAtHead 1 14 0 s ∧ (s.pos 1).avail = .signedOut ∧ (s.pos 1).releaseList = [] ∧
      (s.group 0).mode = .day ∧ (s.group 0).sweep ≠ .idle ∧ (s.group 0).sweepPolicy = .staffFirst) := by decide +kernel

theorem test_sign_in_at_a_day_group_leaves_the_sweep :
    let s := signingIn (dayGroup [])
    ((after (.signIn 1) s).group 0).sweep = .active 5000 ∧
      ((after (.signIn 1) s).call 257).map CallRecord.nightBound = some true := by decide +kernel

theorem test_day_entry_clears_the_marks :
    let s := withPos 1 { desk with avail := .signedOut, intake := [.key 14 0] } sweeping
    ((after (.signIn 1) s).group 0).sweep = .idle ∧
      ((after (.signIn 1) s).call 257).map CallRecord.nightBound = some false := by decide +kernel

/-! ## Witnesses: what every step keeps -/

/-- A running part with a tick in front of its queue. -/
def ticking : State := { runs with pending := [.timeCountTick] }

theorem ticking_steps : step ticking = .next { runs with timeCount := 5001 } := rfl

theorem witness_EveryStepKeepsOriginsUnique :
    OriginsUnique ticking ∧ step ticking = .next { runs with timeCount := 5001 } :=
  ⟨fun _ _ _ _ _ _ h => by simp [State.slot, ticking, runs, State.reset, Tab.get, slotReset] at h, ticking_steps⟩

theorem witness_EveryStepKeepsTheQueuesBounded :
    RecordsNamed ticking ∧ QueuesBounded ticking ∧ OpeningTrue ticking ∧
      step ticking = .next { runs with timeCount := 5001 } := by
  refine ⟨fun n => ⟨Nat.zero_le _, fun c h => ?_⟩, ⟨Nat.zero_le _, fun st => Nat.zero_le _⟩, fun b h => ?_, ticking_steps⟩
  · simp [State.slot, ticking, runs, State.reset, Tab.get, slotReset] at h
  · simp [ticking, runs, State.reset] at h

theorem witness_EveryStepKeepsTheLimits :
    CountsWithinLimits ticking ∧ SettingsInRange ticking ∧ step ticking = .next { runs with timeCount := 5001 } := by
  refine ⟨⟨by decide, by decide, by decide, fun n c h => ?_⟩,
    ⟨by decide, fun c => ?_, fun g => ⟨by show 1 ≤ 8; decide, by show 8 ≤ 64; decide⟩, by decide⟩, ticking_steps⟩
  · simp [State.slot, ticking, runs, State.reset, Tab.get, slotReset] at h
  · simp only [State.cls, ticking, runs, State.reset, Tab.get, List.find?_nil]
    unfold classReset
    split <;> decide

theorem witness_EveryStepKeepsDayIffStaffed :
    DayIffStaffed ticking ∧ OffersAtReady ticking ∧ ConsolesServed ticking ∧
      step ticking = .next { runs with timeCount := 5001 } := by
  refine ⟨by unfold DayIffStaffed; decide, fun p h => absurd h (by simp [State.pos, ticking, runs, State.reset, Tab.get, positionReset]),
    ⟨fun p _ => ⟨rfl, rfl⟩, fun p h => absurd h (by simp [ticking, runs, State.reset]), fun x h => ?_⟩, ticking_steps⟩
  simp [ticking, runs, State.reset] at h

theorem witness_EveryStepKeepsTablesAndBuffers :
    TablesCanonical ticking ∧ ticking.moments = [] ∧ (∀ p, (ticking.pos p).buffer.length ≤ 16) ∧
      step ticking = .next { runs with timeCount := 5001 } :=
  ⟨⟨by decide, by decide, by decide, by decide, by decide, by decide,
    fun p => ⟨List.Pairwise.nil, fun e h => absurd h List.not_mem_nil⟩⟩, rfl, fun p => Nat.zero_le _, ticking_steps⟩

/-- Call 256 alone in the queue of group 0, night-bound, with a sweep ACTIVE and a tick in front of the queue of commands. -/
def tickingQueue : State :=
  { withCall { rec0 256 .queued with nightBound := true } (withGroup { nightGroup [256] with sweep := .active 6000 } runs) with
    arrivalCounter := 1, pending := [.timeCountTick] }

theorem tickingQueue_slot (n : Nat) (c : CallRecord) (h : (tickingQueue.slot n).call = some c) :
    n = 0 ∧ c = { rec0 256 .queued with nightBound := true } := by
  have hs : tickingQueue.slots = [(0, ⟨1, some { rec0 256 .queued with nightBound := true }⟩)] := by decide +kernel
  by_cases e : 0 = n
  · subst e
    simp [State.slot, hs, Tab.get] at h
    exact ⟨rfl, h.symm⟩
  · simp [State.slot, hs, Tab.get, e, slotReset] at h

theorem tickingQueue_group (g : Nat) (h : g ≠ 0) : tickingQueue.group g = groupReset g := by
  have hs : tickingQueue.groups = [(0, { nightGroup [256] with sweep := .active 6000 })] := by decide +kernel
  simp [State.group, hs, Tab.get, Ne.symm h]

theorem tickingQueue_placed : CallsPlaced tickingQueue := by
  refine ⟨fun n c h => ?_, fun g => ?_, fun p r h => ?_, fun p l r h => ?_, fun p l h => ?_, fun st => ?_, fun st r h => ?_⟩
  · obtain ⟨-, rfl⟩ := tickingQueue_slot n c h
    refine ⟨?_, fun d h => by simp [rec0, newRecord] at h⟩
    show _ = none ∧ 256 ∈ (tickingQueue.group 0).queue
    exact ⟨rfl, by decide +kernel⟩
  · by_cases e : g = 0
    · subst e
      have hq : (tickingQueue.group 0).queue = [256] := by decide +kernel
      rw [hq]
      refine ⟨by decide, fun r hr => ?_⟩
      obtain rfl : r = 256 := by simpa using hr
      exact ⟨{ rec0 256 .queued with nightBound := true }, ⟨by decide +kernel, rfl⟩, rfl, rfl⟩
    · rw [tickingQueue_group g e]
      exact ⟨List.nodup_nil, fun r hr => by simp [groupReset] at hr⟩
  · exact absurd h (by simp [State.pos, tickingQueue, withCall, withGroup, runs, State.reset, State.setSlot, State.modGroup,
      Tab.get, positionReset])
  · exact absurd h (by simp [State.pos, tickingQueue, withCall, withGroup, runs, State.reset, State.setSlot, State.modGroup,
      Tab.get, positionReset, Position.loopAt, loopEmpty])
  · exact absurd h (by simp [State.pos, tickingQueue, withCall, withGroup, runs, State.reset, State.setSlot, State.modGroup,
      Tab.get, positionReset])
  · exact ⟨List.nodup_nil, fun r hr => by
      simp [State.station, tickingQueue, withCall, withGroup, runs, State.reset, State.setSlot, State.modGroup, Tab.get,
        stationReset] at hr⟩
  · exact absurd h (by simp [State.station, tickingQueue, withCall, withGroup, runs, State.reset, State.setSlot,
      State.modGroup, Tab.get, stationReset])

theorem tickingQueue_steps : step tickingQueue = .next { tickingQueue with timeCount := 5001, pending := [] } := rfl

theorem tickingQueue_named : RecordsNamed tickingQueue :=
  recordsNamed_of_one _ 0 ⟨1, some { rec0 256 .queued with nightBound := true }⟩ (by decide +kernel) (by decide)
    (fun c h => by cases h; exact ⟨by decide, by decide, rfl⟩)

theorem tickingQueue_served : ConsolesServed tickingQueue :=
  ⟨fun p _ => ⟨rfl, rfl⟩, fun p h => absurd h (by simp [tickingQueue, withCall, withGroup, runs, State.reset, State.setSlot,
    State.modGroup]), fun x h => by
      simp [tickingQueue, withCall, withGroup, runs, State.reset, State.setSlot, State.modGroup] at h⟩

theorem witness_EveryStepKeepsCallsInTheirPlaces :
    RecordsNamed tickingQueue ∧ ConsolesServed tickingQueue ∧ CallsPlaced tickingQueue ∧
      step tickingQueue = .next { tickingQueue with timeCount := 5001, pending := [] } :=
  ⟨tickingQueue_named, tickingQueue_served, tickingQueue_placed, tickingQueue_steps⟩

theorem witness_EveryStepKeepsTheQueueOrder : CallsPlaced tickingQueue ∧ QueuesOrdered tickingQueue := by
  refine ⟨tickingQueue_placed, fun m n c d hc hd _ => ?_, fun n c h => ?_, fun g => ?_⟩
  · rw [(tickingQueue_slot m c hc).1, (tickingQueue_slot n d hd).1]
  · obtain ⟨-, rfl⟩ := tickingQueue_slot n c h
    decide
  · by_cases e : g = 0
    · subst e
      have hq : queueCalls 0 tickingQueue = [{ rec0 256 .queued with nightBound := true }] := by decide +kernel
      rw [hq]; exact List.pairwise_singleton _ _
    · simp [queueCalls, tickingQueue_group g e, groupReset]

theorem witness_EveryStepKeepsTheNightMarks : CallsPlaced tickingQueue ∧ MarksSwept tickingQueue := by
  refine ⟨tickingQueue_placed, fun n c h _ => ?_, fun g => ?_⟩
  · obtain ⟨-, rfl⟩ := tickingQueue_slot n c h
    rfl
  · by_cases e : g = 0
    · subst e
      exact iff_of_true (by decide +kernel) ⟨256, by decide +kernel, { rec0 256 .queued with nightBound := true },
        by decide +kernel, rfl⟩
    · rw [tickingQueue_group g e]
      simp [groupReset]

/-- With no live record and nothing in any place, every call is in its place. -/
theorem keyed_placed (e : ConEvent) : CallsPlaced (keyed e) := by
  have empty : ∀ p, ((keyed e).pos p).offer = none ∧ ((keyed e).pos p).talkLoop = none ∧ ((keyed e).pos p).loops = [] := by
    intro p
    by_cases h : p = 1
    · subst h; exact ⟨rfl, rfl, rfl⟩
    · simp [State.pos, keyed, withPos, withGroup, runs, State.reset, State.modPos, State.modGroup, Tab.get, Tab.put, Ne.symm h,
        positionReset, desk]
  have queue : ∀ g, ((keyed e).group g).queue = [] := by
    intro g
    by_cases h : g = 0
    · subst h; rfl
    · simp [State.group, keyed, withPos, withGroup, runs, State.reset, State.modPos, State.modGroup, Tab.get, Tab.put, Ne.symm h,
        groupReset, dayGroup]
  refine ⟨fun n c h => ?_, fun g => ?_, fun p r h => ?_, fun p l r h => ?_, fun p l h => ?_, fun st => ?_, fun st r h => ?_⟩
  · exact absurd h (by simp [State.slot, keyed, withPos, withGroup, runs, State.reset, State.modPos, State.modGroup, Tab.get,
      slotReset])
  · rw [queue g]; exact ⟨List.nodup_nil, fun r hr => absurd hr List.not_mem_nil⟩
  · rw [(empty p).1] at h; cases h
  · rw [Position.loopAt, (empty p).2.2] at h; cases h
  · rw [(empty p).2.1] at h; cases h
  · exact ⟨List.nodup_nil, fun r hr => absurd hr List.not_mem_nil⟩
  · cases h

theorem witness_EveryRowPlacesItsMessages :
    (RecordsNamed tickingQueue ∧ CallsPlaced tickingQueue ∧ tickingQueue.moments = [] ∧
      (∀ q, (tickingQueue.pos q).buffer.length ≤ 16) ∧
      exec (.cleared 256) tickingQueue = .next (after (.cleared 256) tickingQueue) ∧ keyPosition (.cleared 256) = none ∧
      ¬OwnBuffer (.cleared 256) 1 tickingQueue (after (.cleared 256) tickingQueue)) ∧
    ∀ e : ConEvent, RecordsNamed (keyed e) ∧ CallsPlaced (keyed e) ∧ (keyed e).moments = [] ∧
      (∀ q, ((keyed e).pos q).buffer.length ≤ 16) ∧ exec (.answer 1) (keyed e) = .next (after (.answer 1) (keyed e)) ∧
      keyPosition (.answer 1) = some 1 ∧ keyPosition (.answer 1) ≠ some 2 ∧
      ∀ p, ¬OwnBuffer (.answer 1) p (keyed e) (after (.answer 1) (keyed e)) := by
  refine ⟨⟨tickingQueue_named, tickingQueue_placed, rfl, fun q => Nat.zero_le _, rfl, rfl, by simp [OwnBuffer]⟩,
    fun e => ⟨fun n => ⟨Nat.zero_le _, fun c h => ?_⟩, keyed_placed e, rfl, fun q => ?_, rfl, rfl, by decide,
      fun p => by simp [OwnBuffer]⟩⟩
  · exact absurd h (by simp [State.slot, keyed, withPos, withGroup, runs, State.reset, State.modPos, State.modGroup, Tab.get,
      slotReset])
  · by_cases h : q = 1
    · subst h; exact Nat.zero_le _
    · simp [State.pos, keyed, withPos, withGroup, runs, State.reset, State.modPos, State.modGroup, Tab.get, Tab.put, Ne.symm h,
        positionReset, desk]

theorem witness_RequestFramesRoundTrip : (Instr.stationBlock 65535 54 (List.replicate 54 15)).wf = true ∧
    (encodeRequest (.stationBlock 65535 54 (List.replicate 54 15))).isSome = true := by decide

end Sys2Proof.Tests
end

section
/-! PROOFS. QUERY (R20): its answer, and that the end of an event that changes no call, group or position leaves them all as
they were. -/

namespace Sys2Proof.Machine

section

variable {s t u : State}

/-! ## The frames of a request -/

theorem SameRegisters.trans (h : SameRegisters s t) (k : SameRegisters t u) : SameRegisters s u := by
  unfold SameRegisters at *
  simp only [k, h, and_self]

theorem sameRegisters_shiftStatus (s : State) : SameRegisters s (shiftStatus s) :=
  ⟨rfl, rfl, rfl, rfl, rfl, rfl, rfl, rfl, rfl, rfl, rfl, rfl, rfl, rfl, rfl, rfl⟩

theorem sameRegisters_emit (s : State) (m : Msg) : SameRegisters s (s.emit m) := by simp [SameRegisters]

theorem sameRegisters_endEvent (before after : State) : SameRegisters after (endEvent before after) := by
  simp [SameRegisters]

theorem statusShown_shiftStatus (s : State) : StatusShown s (shiftStatus s) := ⟨rfl, rfl, rfl, rfl⟩

/-- Placing a message does not reach the link's record of the transaction. -/
theorem StatusShown.emit (h : StatusShown s t) (m : Msg) : StatusShown s (t.emit m) := h

theorem StatusShown.endEvent (h : StatusShown s t) (before : State) : StatusShown s (endEvent before t) := by
  simpa [StatusShown] using h

/-! ## The end of an event that changes nothing a console shows -/

/-- `t` has the calls, groups, positions and time of `s`: all that offerability and the consoles' images derive from. -/
structure ReadsAs (s t : State) : Prop where
  call : ∀ r, t.call r = s.call r
  group : ∀ g, t.group g = s.group g
  pos : ∀ p, t.pos p = s.pos p
  time : t.timeCount = s.timeCount

theorem readsAs_emit (s : State) (m : Msg) : ReadsAs s (s.emit m) :=
  ⟨call_emit s m, group_emit s m, pos_emit s m, rfl⟩

theorem ReadsAs.offerable (h : ReadsAs s t) (g p : Nat) : offerable g p t = offerable g p s := by
  simp only [Machine.offerable, inGroup, h.pos]

theorem ReadsAs.newlyOfferable (h : ReadsAs s t) (g : Nat) : newlyOfferable s t g = false := by
  simp [Machine.newlyOfferable, h.offerable]

theorem ReadsAs.positionImage (h : ReadsAs s t) (p : Nat) : positionImage p t = positionImage p s := by
  simp only [Machine.positionImage, lampMsgs, loopLamp, offerLamp, displayOf, panelOf, talkCall, h.pos, h.call, h.time]

theorem ReadsAs.selectableCalls (h : ReadsAs s t) (g : Nat) : selectableCalls g t = selectableCalls g s := by
  simp only [Machine.selectableCalls, queueCalls, h.group, show t.call = s.call from funext h.call]

theorem ReadsAs.groupMsg (h : ReadsAs s t) (g : Nat) : groupMsg g t = groupMsg g s := by
  rw [Machine.groupMsg, groupLamp, waitingCount, h.selectableCalls, h.group]
  rfl

/-- No change and no moment make no message (R51, R81). -/
theorem ReadsAs.eventMsgs (h : ReadsAs s t) (hm : t.moments = []) (p : Nat) : eventMsgs s t p = [] := by
  have image : imageChanges s t p = [] := by
    rw [imageChanges, h.positionImage, List.filter_eq_nil_iff]
    intro m hmem
    simp [hmem]
  have group : groupChange s t p = [] := by simp [groupChange, h.groupMsg]
  have moments : momentsAt p t = [] := by simp [momentsAt, hm]
  rw [Machine.eventMsgs, image, group, moments, inOrder_nil, List.append_nil]

theorem ReadsAs.talkEffect (h : ReadsAs s t) (now p : Nat) : talkEffect s now p (t.pos p) = s.pos p := by
  simp [Machine.talkEffect, h.pos]

/-- Neither a talk path nor an offerable position is new, so that nothing follows from the event (R55, R56). -/
theorem ReadsAs.settled (h : ReadsAs s t) : ReadsAs s (settled s t) := by
  have pos : ∀ p, (t.mapPositions (Machine.talkEffect s t.timeCount)).pos p = s.pos p := by
    intro p
    rw [pos_mapPositions]
    split
    · exact h.talkEffect _ p
    · exact h.pos p
  have mapped : ReadsAs s (t.mapPositions (Machine.talkEffect s t.timeCount)) :=
    ⟨fun r => (call_mapPositions t _ r).trans (h.call r), fun g => (group_mapPositions t _ g).trans (h.group g), pos,
      (mapPositions_timeCount t _).trans h.time⟩
  refine ⟨fun r => ?_, fun g => ?_, fun p => ?_, ?_⟩
  · rw [Machine.settled, State.call, State.slot, reportOfferable_slots]
    exact mapped.call r
  · rw [Machine.settled, group_reportOfferable, mapped.newlyOfferable, mapped.group]
    simp [GroupRecord.marked]
  · rw [Machine.settled, pos_reportOfferable, mapped.pos]
  · rw [Machine.settled, reportOfferable_timeCount, mapped.time]

theorem reportOfferable_moments (before after : State) : (reportOfferable before after).moments = after.moments := by
  rw [reportOfferable_eq]

theorem settled_moments (before after : State) : (settled before after).moments = after.moments := by
  rw [settled, reportOfferable_moments, mapPositions_moments]

theorem placeMsgs_nil (s : State) (p : Nat) (q : Position) (h : q.buffer.length ≤ 16) : placeMsgs s p [] q = q := by
  simp [placeMsgs, Config.bufferCapacity, h]

/-- A group at the end of an event that changed nothing it reads. -/
theorem ReadsAs.group_endEvent (h : ReadsAs s t) (g : Nat) : (endEvent s t).group g = s.group g := by
  rw [← h.settled.group g, endEvent_eq]
  simp only [State.group, deliver, mapPositions_groups]

/-- A position at the end of an event that changed nothing it reads: no message is placed, and no buffer overflows. -/
theorem ReadsAs.pos_endEvent (h : ReadsAs s t) (hm : t.moments = []) (p : Nat) (hb : (s.pos p).buffer.length ≤ 16) :
    (endEvent s t).pos p = s.pos p := by
  by_cases hp : p ∈ positionNumbers
  · have noMsgs : Machine.eventMsgs s (Machine.settled s t) p = [] :=
      h.settled.eventMsgs ((settled_moments s t).trans hm) p
    rw [Machine.pos_endEvent _ _ _ hp, noMsgs, h.talkEffect, placeMsgs_nil _ _ _ hb]
  · rw [pos_endEvent_other _ _ _ hp, h.pos]

/-! ## The answer of a QUERY -/

theorem resolve_unknown_of_gen_zero (report : Bool) {ref : Nat} (s : State) (h : genOf ref = 0) :
    resolve report ref s = .unknown := by
  simp [resolve, h]

theorem resolve_stale_of_gen_ne (report : Bool) {ref : Nat} (h0 : genOf ref ≠ 0) (h : genOf ref ≠ (s.slot (slotOf ref)).gen) :
    resolve report ref s = .stale := by
  simp [resolve, h0, h]

/-- A reference of the present generation of a FREE slot; a report to it is late instead (R3). -/
theorem resolve_unknown_of_free {ref : Nat} (h0 : genOf ref ≠ 0) (h : genOf ref = (s.slot (slotOf ref)).gen)
    (hc : (s.slot (slotOf ref)).call = none) : resolve false ref s = .unknown := by
  rw [resolve, if_neg h0, if_neg (not_not.2 h), hc]
  rfl

/-- The message that a QUERY places (R20). -/
def queryAnswer (ref : Nat) (s : State) : Msg :=
  match resolve false ref s with
  | .unknown => answer .query .unknown ref 0
  | .stale => answer .query .stale ref 0
  | .live c => imageAnswer .query c s

/-- QUERY places its answer and does nothing else. -/
theorem query_effect (ref : Nat) (s : State) :
    onRecord .query false ref (fun c s => s.emit (imageAnswer .query c s)) s = s.emit (queryAnswer ref s) := by
  unfold onRecord queryAnswer
  cases resolve false ref s <;> rfl

theorem queryAnswer_unknown {ref : Nat} (h : resolve false ref s = .unknown) :
    queryAnswer ref s = .answer .query .unknown ref 0 .none := by
  simp only [queryAnswer, h, answer]

theorem queryAnswer_stale {ref : Nat} (h : resolve false ref s = .stale) :
    queryAnswer ref s = .answer .query .stale ref 0 .none := by
  simp only [queryAnswer, h, answer]

theorem queryAnswer_live {ref : Nat} {c : CallRecord} (h : Names ref c s) :
    queryAnswer ref s = .answer .query .ok ref c.state.code (.image (imageOf c s.timeCount)) := by
  obtain ⟨gen_ne, gen_eq, live, named⟩ := h
  have resolved : resolve false ref s = .live c := (resolve_live_iff _ _ _ _).2 ⟨gen_ne, gen_eq, live⟩
  simp only [queryAnswer, resolved, imageAnswer, answer, named]

theorem exec_query_taken (ref : Nat) (h : LinkTakes s) :
    exec (.query ref) s =
      .next (endEvent (shiftStatus s) ((shiftStatus s).emit (queryAnswer ref (shiftStatus s)))) := by
  show execQuery ref s = _
  rw [execQuery, request_taken _ _ h.1 h.2, takeEvent, query_effect]

end

/-- Settles O12: QUERY is one event whose whole effect is its answer, and the end of such an event changes nothing. -/
theorem queryAnswersTheImage : Obligations.QueryAnswersTheImage := by
  intro s ref takes noMoment buffers
  have same := readsAs_emit (shiftStatus s) (queryAnswer ref (shiftStatus s))
  refine ⟨_, queryAnswer ref (shiftStatus s), exec_query_taken ref takes, endEvent_outbound _ _, ?unknown, ?stale, ?free, ?live,
    slot_endEvent _ _, same.group_endEvent, fun p => same.pos_endEvent noMoment p (buffers p), ?directory,
    endEvent_arrivalCounter _ _, ?registers, ?status⟩
  case unknown => exact fun h => queryAnswer_unknown (resolve_unknown_of_gen_zero false _ h)
  case stale => exact fun h0 h => queryAnswer_stale (resolve_stale_of_gen_ne false h0 h)
  case free => exact fun h0 h hc => queryAnswer_unknown (resolve_unknown_of_free h0 h hc)
  case live => exact fun c h => queryAnswer_live h
  case directory => exact ⟨endEvent_stations _ _, endEvent_hunts _ _⟩
  case registers =>
    exact ((sameRegisters_shiftStatus s).trans (sameRegisters_emit _ _)).trans (sameRegisters_endEvent _ _)
  case status => exact ((statusShown_shiftStatus s).emit _).endEvent _

end Sys2Proof.Machine
end

section
/-! PROOFS. Selection (R36, R37): the forced call, then the order by score, over the best of a list. -/

namespace Sys2Proof.Machine

/-! ## The forced call (R36) -/

/-- The selectable calls that R36 forces: those at a bypass limit of 1 or more. -/
def AtLimit (g : Nat) (s : State) (d : CallRecord) : Prop :=
  d ∈ selectableCalls g s ∧ 1 ≤ s.bypassLimit ∧ d.bypass = s.bypassLimit

theorem mem_forced_candidates (g : Nat) (s : State) (d : CallRecord) :
    d ∈ (selectableCalls g s).filter (fun c => 1 ≤ s.bypassLimit && c.bypass == s.bypassLimit) ↔ AtLimit g s d := by
  simp [AtLimit]

theorem forcedCall_eq_none (g : Nat) (s : State) : forcedCall g s = none ↔ ∀ d, ¬ AtLimit g s d := by
  simp only [forcedCall, bestBy_eq_none, List.eq_nil_iff_forall_not_mem, mem_forced_candidates]

theorem forcedCall_atLimit {g : Nat} {s : State} {c : CallRecord} (h : forcedCall g s = some c) : AtLimit g s c :=
  (mem_forced_candidates g s c).1 (bestBy_mem _ _ _ h)

/-- The best by arrival sequence has the lowest one of the list. -/
theorem bestBy_arrivalSeq_lowest {l : List CallRecord} {c : CallRecord}
    (h : bestBy (fun a b => a.arrivalSeq < b.arrivalSeq) l = some c) : ∀ d ∈ l, c.arrivalSeq ≤ d.arrivalSeq := by
  intro d hd
  simpa using bestBy_best _ (by simp) (by simpa using fun _ _ => Nat.le_of_lt)
    (by simpa using fun _ _ _ hba hcb => Nat.le_trans hcb hba) l c h d hd

theorem forcedCall_lowest_sequence {g : Nat} {s : State} {c : CallRecord} (h : forcedCall g s = some c) :
    ∀ d, AtLimit g s d → c.arrivalSeq ≤ d.arrivalSeq :=
  fun d hd => bestBy_arrivalSeq_lowest h d ((mem_forced_candidates g s d).2 hd)

/-! ## The call of highest score (R37) -/

/-- `a` does not go before `b`: it has no higher score, and among equals no lower arrival sequence. -/
theorem scoresBefore_eq_false (s : State) (a b : CallRecord) :
    scoresBefore s a b = false ↔
      callScore s a ≤ callScore s b ∧ (callScore s a = callScore s b → b.arrivalSeq ≤ a.arrivalSeq) := by
  simp [scoresBefore]

theorem scoresBefore_eq_true (s : State) (a b : CallRecord) :
    scoresBefore s a b = true ↔
      callScore s b < callScore s a ∨ (callScore s a = callScore s b ∧ a.arrivalSeq < b.arrivalSeq) := by
  simp [scoresBefore]

theorem scoresBefore_irrefl (s : State) (a : CallRecord) : scoresBefore s a a = false := by
  simp [scoresBefore_eq_false]

theorem scoresBefore_asymm (s : State) (a b : CallRecord) (h : scoresBefore s a b = true) :
    scoresBefore s b a = false := by
  rw [scoresBefore_eq_true] at h
  rw [scoresBefore_eq_false]
  omega

theorem scoresBefore_not_trans (s : State) (a b c : CallRecord) (hab : scoresBefore s a b = false)
    (hbc : scoresBefore s b c = false) : scoresBefore s a c = false := by
  rw [scoresBefore_eq_false] at *
  omega

theorem bestBy_scoresBefore_highest {s : State} {l : List CallRecord} {c : CallRecord}
    (h : bestBy (scoresBefore s) l = some c) : ∀ d ∈ l,
    callScore s d ≤ callScore s c ∧ (callScore s d = callScore s c → c.arrivalSeq ≤ d.arrivalSeq) := by
  intro d hd
  exact (scoresBefore_eq_false s d c).1
    (bestBy_best _ (scoresBefore_irrefl s) (scoresBefore_asymm s) (scoresBefore_not_trans s) _ _ h d hd)

/-! ## The selection -/

theorem selectCall_of_forced {g : Nat} {s : State} {c : CallRecord} (h : forcedCall g s = some c) :
    selectCall g s = some c := by
  rw [selectCall, h]

theorem selectCall_of_not_forced {g : Nat} {s : State} (h : forcedCall g s = none) :
    selectCall g s = bestBy (scoresBefore s) (selectableCalls g s) := by
  rw [selectCall, h]

theorem selectCall_eq_none (g : Nat) (s : State) : selectCall g s = none ↔ selectableCalls g s = [] := by
  cases hf : forcedCall g s with
  | none => rw [selectCall_of_not_forced hf, bestBy_eq_none]
  | some c => simp [selectCall_of_forced hf, List.ne_nil_of_mem (forcedCall_atLimit hf).1]

/-- The two steps of a selection: the chosen call is the forced one, or no call is forced and it is the one of highest
score. -/
theorem selectCall_cases {g : Nat} {s : State} {c : CallRecord} (h : selectCall g s = some c) :
    forcedCall g s = some c ∨ (forcedCall g s = none ∧ bestBy (scoresBefore s) (selectableCalls g s) = some c) := by
  cases hf : forcedCall g s with
  | none => exact .inr ⟨rfl, selectCall_of_not_forced hf ▸ h⟩
  | some d => exact .inl (selectCall_of_forced hf ▸ h)

theorem selectCall_mem {g : Nat} {s : State} {c : CallRecord} (h : selectCall g s = some c) :
    c ∈ selectableCalls g s := by
  obtain forced | ⟨-, best⟩ := selectCall_cases h
  · exact (forcedCall_atLimit forced).1
  · exact bestBy_mem _ _ _ best

/-- Where a call is at the limit, the selection is forced (R36). -/
theorem forcedCall_of_selectCall {g : Nat} {s : State} {c d : CallRecord} (h : selectCall g s = some c)
    (hd : AtLimit g s d) : forcedCall g s = some c := by
  obtain forced | ⟨unforced, -⟩ := selectCall_cases h
  · exact forced
  · exact absurd hd ((forcedCall_eq_none g s).1 unforced d)

/-- Where no call is at the limit, the selection goes by score (R37). -/
theorem selectCall_highest {g : Nat} {s : State} {c : CallRecord} (h : selectCall g s = some c)
    (noneAtLimit : ∀ d, ¬ AtLimit g s d) : ∀ d ∈ selectableCalls g s,
    callScore s d ≤ callScore s c ∧ (callScore s d = callScore s c → c.arrivalSeq ≤ d.arrivalSeq) := by
  have unforced := (forcedCall_eq_none g s).2 noneAtLimit
  exact bestBy_scoresBefore_highest (selectCall_of_not_forced unforced ▸ h)

/-- Settles O35: a call at the bypass limit makes the selection forced, and without one it goes by score. -/
theorem selectionIsForcedThenByScore : Obligations.SelectionIsForcedThenByScore := by
  intro s g value hvalue
  obtain rfl : value = callScore s := funext hvalue
  refine ⟨(selectCall_eq_none g s).2, fun nonempty => ?_⟩
  obtain ⟨c, hc⟩ := Option.ne_none_iff_exists'.1 (mt (selectCall_eq_none g s).1 nonempty)
  refine ⟨c, hc, selectCall_mem hc, ?forced, ?byScore⟩
  case forced =>
    rintro limit ⟨d, hd, bypass⟩
    have forced := forcedCall_of_selectCall hc ⟨hd, limit, bypass⟩
    obtain ⟨-, -, atLimit⟩ := forcedCall_atLimit forced
    exact ⟨atLimit, fun e he bypass => forcedCall_lowest_sequence forced e ⟨he, limit, bypass⟩⟩
  case byScore =>
    intro unforced
    refine selectCall_highest hc ?_
    rintro d ⟨hd, limit, bypass⟩
    rcases unforced with zero | below
    · omega
    · exact below d hd bypass

end Sys2Proof.Machine
end

section
/-! PROOFS. STATION_ATTR (R113): the flags that it writes, and that the end of an event leaves every group and position as
it was, but for the output buffers, where no call, group or position has changed. -/

namespace Sys2Proof.Machine

section

variable {s t u : State}

/-! ## Frames of a request that changes no call, group or position -/

theorem ReadsAs.trans (h : ReadsAs s t) (k : ReadsAs t u) : ReadsAs s u :=
  ⟨fun r => (k.call r).trans (h.call r), fun g => (k.group g).trans (h.group g), fun p => (k.pos p).trans (h.pos p),
    k.time.trans h.time⟩

theorem readsAs_modStation (s : State) (n : Nat) (f : Station → Station) : ReadsAs s (s.modStation n f) :=
  ⟨call_modStation s n f, group_modStation s n f, pos_modStation s n f, rfl⟩

theorem sameGroup_of_eq {g : Nat} (h : t.group g = s.group g) : SameGroup g s t := by
  refine ⟨?_, ?_, ?_⟩ <;> rw [h]
  · exact id
  · exact .inl

theorem ReadsAs.sameGroups_endEvent (h : ReadsAs s t) : SameGroups s (endEvent s t) :=
  fun g => sameGroup_of_eq (h.group_endEvent g)

/-- The output buffers may still take messages: those of moments that the state held before the event. -/
theorem ReadsAs.samePositions_endEvent (h : ReadsAs s t) : SamePositions s (endEvent s t) := by
  intro p
  have moved := pos_endEvent_same s t p (by rw [h.pos])
  rwa [h.pos] at moved

theorem sameRegisters_modStation (s : State) (n : Nat) (f : Station → Station) : SameRegisters s (s.modStation n f) := by
  simp [SameRegisters]

/-- Writing a station entry does not reach the link's record of the transaction. -/
theorem StatusShown.modStation (h : StatusShown s t) (n : Nat) (f : Station → Station) :
    StatusShown s (t.modStation n f) := h

/-- A request taken with no effect but its answer. -/
theorem answeredOnly_endEvent_emit (a : Msg) (s : State) :
    AnsweredOnly a s (endEvent (shiftStatus s) ((shiftStatus s).emit a)) := by
  have same := readsAs_emit (shiftStatus s) a
  exact ⟨endEvent_outbound _ _, ((statusShown_shiftStatus s).emit a).endEvent _,
    ((sameRegisters_shiftStatus s).trans (sameRegisters_emit _ _)).trans (sameRegisters_endEvent _ _),
    endEvent_arrivalCounter _ _, slot_endEvent _ _, same.sameGroups_endEvent, same.samePositions_endEvent,
    endEvent_stations _ _, endEvent_hunts _ _⟩

/-! ## The effect of STATION_ATTR -/

theorem isStationNumber_iff (n : Nat) : isStationNumber n = true ↔ n ≤ 4095 :=
  decide_eq_true_iff

theorem flagBit_eq_testBit (n i : Nat) : flagBit n i = n.testBit i := by
  rw [flagBit, Nat.testBit_eq_decide_div_mod_eq]
  rfl

/-- A station entry with both attributes written, and nothing else of it (R113). -/
def Station.withAttributes (prot camp : Bool) (e : Station) : Station := { e with prot := prot, campAllowed := camp }

theorem stationAttrEffect_of_le {station : Nat} (flags : Nat) (s : State) (h : station ≤ 4095) :
    stationAttrEffect station flags s =
      (s.modStation station (Station.withAttributes (flags.testBit 0) (flags.testBit 1))).emit
        (.answer .stationAttr .ok 0 0 (.attrWritten station (flags.testBit 0) (flags.testBit 1))) := by
  rw [stationAttrEffect, if_pos ((isStationNumber_iff station).2 h), flagBit_eq_testBit, flagBit_eq_testBit]
  rfl

theorem stationAttrEffect_of_gt {station : Nat} (flags : Nat) (s : State) (h : 4095 < station) :
    stationAttrEffect station flags s = s.emit (.answer .stationAttr .badValue 0 0 (.stationBad station)) := by
  rw [stationAttrEffect, if_neg (mt (isStationNumber_iff station).1 (Nat.not_le.2 h))]
  rfl

/-- The attributes are read by no count, lamp or offer: whatever the number given, only the entry and the answer change. -/
theorem readsAs_stationAttrEffect (station flags : Nat) (s : State) : ReadsAs s (stationAttrEffect station flags s) := by
  rcases Nat.lt_or_ge 4095 station with outOfRange | inRange
  · rw [stationAttrEffect_of_gt flags s outOfRange]
    exact readsAs_emit s _
  · rw [stationAttrEffect_of_le flags s inRange]
    exact (readsAs_modStation s station _).trans (readsAs_emit _ _)

theorem exec_stationAttr_taken (station flags : Nat) (h : LinkTakes s) :
    exec (.stationAttr station flags) s =
      .next (endEvent (shiftStatus s) (stationAttrEffect station flags (shiftStatus s))) := by
  obtain ⟨ready, unlocked⟩ := h
  show execStationAttr station flags s = _
  rw [execStationAttr, request_taken _ _ ready unlocked, takeEvent]

end

/-- Settles O19: a station number in range has its entry written and the answer placed, and the end of that event changes no
call, group or position; a number out of range is answered only. -/
theorem stationAttrWritesBothFlags : Obligations.StationAttrWritesBothFlags := by
  rintro s station _ _ flags takes rfl rfl
  refine ⟨fun inRange => ?written, fun outOfRange => ?refused⟩
  case refused =>
    refine ⟨_, exec_stationAttr_taken station flags takes, ?_⟩
    rw [stationAttrEffect_of_gt flags _ outOfRange]
    exact answeredOnly_endEvent_emit _ s
  case written =>
    have same := readsAs_stationAttrEffect station flags (shiftStatus s)
    refine ⟨_, exec_stationAttr_taken station flags takes, ?_⟩
    rw [stationAttrEffect_of_le flags _ inRange] at same ⊢
    refine ⟨?entry, fun x hx => ?others, endEvent_hunts _ _, endEvent_outbound _ _, slot_endEvent _ _,
      same.sameGroups_endEvent, same.samePositions_endEvent, ?registers, ?status⟩
    case entry =>
      rw [station_endEvent, station_emit, station_modStation, if_pos rfl]
      rfl
    case others => rw [station_endEvent, station_emit, station_modStation, if_neg hx, shiftStatus_station]
    case registers =>
      exact (((sameRegisters_shiftStatus s).trans (sameRegisters_modStation _ _ _)).trans
        (sameRegisters_emit _ _)).trans (sameRegisters_endEvent _ _)
    case status => exact (((statusShown_shiftStatus s).modStation _ _).emit _).endEvent _

end Sys2Proof.Machine
end

section
/-! PROOFS. DIVERT_RESULT OK (R151), and the frames of an event that changes calls and messages but no group or position. -/

namespace Sys2Proof.Machine

section

variable {s t u before after : State}

/-! ## Frames of an event that changes no group or position -/

theorem CallsOnly.sameRegisters (h : CallsOnly s t) : SameRegisters s t := by
  unfold CallsOnly at h
  rw [h]
  exact ⟨rfl, rfl, rfl, rfl, rfl, rfl, rfl, rfl, rfl, rfl, rfl, rfl, rfl, rfl, rfl, rfl⟩

/-- An operation on calls does not reach the link's record of the transaction. -/
theorem StatusShown.callsOnly (h : StatusShown s t) (k : CallsOnly t u) : StatusShown s u := by
  unfold CallsOnly at k
  rw [k]
  exact h

theorem group_endEvent_marked (before after : State) (g : Nat) :
    (endEvent before after).group g =
      (after.group g).marked
        (decide (g ∈ groupNumbers) &&
          newlyOfferable before (after.mapPositions (talkEffect before after.timeCount)) g) := by
  have delivered : (endEvent before after).group g = (settled before after).group g := by
    simp only [State.group, endEvent_eq, deliver, mapPositions_groups]
  rw [delivered, settled, group_reportOfferable, group_mapPositions]

/-- Calling for a pairing is no other change, and only an OFFER group takes it (R42). -/
theorem sameGroup_of_marked {g : Nat} {b : Bool} (h : t.group g = (s.group g).marked b) : SameGroup g s t := by
  refine ⟨?_, ?_, ?_⟩ <;> rw [h] <;> simp only [GroupRecord.marked]
  · intro due
    rw [due, Bool.true_or]
  · intro due
    rw [Bool.or_eq_true, Bool.and_eq_true, beq_iff_eq] at due
    exact due.imp_right And.right

theorem sameGroups_endEvent (h : ∀ g, after.group g = s.group g) : SameGroups s (endEvent before after) :=
  fun g => sameGroup_of_marked ((group_endEvent_marked before after g).trans (by rw [h]))

theorem samePositions_endEvent (hb : ∀ p, before.pos p = s.pos p) (ha : ∀ p, after.pos p = s.pos p) :
    SamePositions s (endEvent before after) := by
  intro p
  have moved := pos_endEvent_same before after p (by rw [hb, ha])
  rwa [ha] at moved

/-! ## A FREE slot of the present generation -/

/-- A report of a reference whose record has been retired comes late (R3). -/
theorem resolve_stale_of_free {ref : Nat} (h0 : genOf ref ≠ 0) (h : genOf ref = (s.slot (slotOf ref)).gen)
    (hc : (s.slot (slotOf ref)).call = none) : resolve true ref s = .stale := by
  rw [resolve, if_neg h0, if_neg (not_not.2 h), hc]
  rfl

/-! ## The effect of DIVERT_RESULT OK -/

/-- The record retired and the report answered OK with the state that the record had (R151). -/
abbrev divertConfirmed (ref : Nat) (s : State) : State := (retire ref s).emit (.answer .divertResult .ok ref 9 .none)

theorem divertConfirmed_frame (ref : Nat) (s : State) : CallsOnly s (divertConfirmed ref s) :=
  ((CallsOnly.refl s).retire ref).emit _

theorem slot_divertConfirmed (ref : Nat) (s : State) (n : Nat) :
    (divertConfirmed ref s).slot n = if n = slotOf ref then { s.slot n with call := none } else s.slot n := by
  rw [slot_emit, slot_retire]

theorem divertResultEffect_ok {ref : Nat} {c : CallRecord} (named : Names ref c s) (diverting : c.state = .diverting) :
    divertResultEffect ref 0 s = divertConfirmed ref s := by
  obtain ⟨gen_ne, gen_eq, live, rfl⟩ := named
  have resolved : resolve true c.ref s = .live c := (resolve_live_iff _ _ _ _).2 ⟨gen_ne, gen_eq, live⟩
  rw [divertResultEffect, if_neg (by decide), onRecord_live _ _ _ _ _ _ resolved, divertRecord, if_pos diverting, if_pos rfl]
  rfl

theorem exec_divertResult_taken (ref outcome : Nat) (h : LinkTakes s) :
    exec (.divertResult ref outcome) s =
      .next (endEvent (shiftStatus s) (divertResultEffect ref outcome (shiftStatus s))) := by
  obtain ⟨ready, unlocked⟩ := h
  show execDivertResult ref outcome s = _
  rw [execDivertResult, request_taken _ _ ready unlocked, takeEvent]

end

/-- Settles O17: the report's one event retires the record and answers; the reference then names a FREE slot that keeps the
generation. -/
theorem divertResultOkRetires : Obligations.DivertResultOkRetires := by
  intro s ref c takes named diverting
  have ⟨gen_ne, gen_eq, _, _⟩ := named
  have effect : divertResultEffect ref 0 (shiftStatus s) = divertConfirmed ref (shiftStatus s) :=
    divertResultEffect_ok named diverting
  have frame := divertConfirmed_frame ref (shiftStatus s)
  have slot : ∀ n, (endEvent (shiftStatus s) (divertConfirmed ref (shiftStatus s))).slot n =
      if n = slotOf ref then { s.slot n with call := none } else s.slot n := fun n => by
    rw [slot_endEvent, slot_divertConfirmed, shiftStatus_slot]
  have freed := (slot (slotOf ref)).trans (if_pos rfl)
  refine ⟨_, effect ▸ exec_divertResult_taken ref 0 takes, freed, endEvent_outbound _ _, ?stale, ?unknown,
    fun n hn => (slot n).trans (if_neg hn), sameGroups_endEvent fun _ => rfl, samePositions_endEvent (fun _ => rfl) fun _ => rfl,
    ⟨endEvent_stations _ _, endEvent_hunts _ _⟩, endEvent_arrivalCounter _ _, ?registers, ?status⟩
  case stale => exact resolve_stale_of_free gen_ne (by rw [freed]; exact gen_eq) (by rw [freed])
  case unknown => exact resolve_unknown_of_free gen_ne (by rw [freed]; exact gen_eq) (by rw [freed])
  case registers =>
    exact ((sameRegisters_shiftStatus s).trans frame.sameRegisters).trans (sameRegisters_endEvent _ _)
  case status => exact ((statusShown_shiftStatus s).callsOnly frame).endEvent _

end Sys2Proof.Machine
end

section
/-! PROOFS. The expiry of a QUEUE deadline (R154): the record in warning, and what its group's lamp shows then. -/

namespace Sys2Proof.Machine

section

variable {s t before after : State}

/-! ## Selectable calls and the group lamp -/

theorem selectableCalls_eq_filterMap (g : Nat) (s : State) :
    selectableCalls g s = (s.group g).queue.filterMap fun r => (s.call r).filter CallRecord.selectable := by
  rw [selectableCalls, queueCalls, List.filter_filterMap]

/-- The selectable calls of a group are those of its queue, by what each reference in it names. -/
theorem selectableCalls_congr {g : Nat} (queue : (t.group g).queue = (s.group g).queue)
    (call : ∀ r, (t.call r).filter CallRecord.selectable = (s.call r).filter CallRecord.selectable) :
    selectableCalls g t = selectableCalls g s := by
  rw [selectableCalls_eq_filterMap, selectableCalls_eq_filterMap, queue, funext call]

theorem mem_selectableCalls {g r : Nat} {c : CallRecord} (queued : r ∈ (s.group g).queue) (live : s.call r = some c)
    (selectable : c.selectable = true) : c ∈ selectableCalls g s :=
  List.mem_filter.2 ⟨List.mem_filterMap.2 ⟨r, queued, live⟩, selectable⟩

/-- The lamp derives from the selectable calls and the alarm depth (R50). -/
theorem groupLamp_congr {g : Nat} (calls : selectableCalls g t = selectableCalls g s)
    (depth : (t.group g).alarmDepth = (s.group g).alarmDepth) : groupLamp g t = groupLamp g s := by
  rw [groupLamp, groupLamp, waitingCount, waitingCount, calls, depth]

theorem groupLamp_endEvent (before after : State) (g : Nat) : groupLamp g (endEvent before after) = groupLamp g after :=
  groupLamp_congr
    (selectableCalls_congr (by rw [group_endEvent]) fun r => by rw [call_endEvent])
    (by rw [group_endEvent])

theorem groupLamp_begun (s : State) (g : Nat) : groupLamp g s.begun = groupLamp g s :=
  groupLamp_congr (selectableCalls_congr (by rw [begun_group]) fun r => by rw [begun_call]) (by rw [begun_group])

/-- One selectable call in warning makes the lamp FLASH (R50). -/
theorem groupLamp_flash {g : Nat} {c : CallRecord} (selectable : c ∈ selectableCalls g s) (warning : c.warning = true) :
    groupLamp g s = .flash := by
  have waits : waitingCount g s ≠ 0 := by
    rw [waitingCount, Ne, List.length_eq_zero_iff]
    exact List.ne_nil_of_mem selectable
  have warned : (selectableCalls g s).any (fun c => c.warning) = true := List.any_eq_true.2 ⟨c, selectable, warning⟩
  rw [groupLamp, if_neg waits, if_pos (by rw [warned, Bool.or_true])]

/-! ## The call in warning -/

/-- The record that R154 makes of a call at the present time. -/
def CallRecord.inWarning (s : State) (c : CallRecord) : CallRecord :=
  { c with warning := true, deadline := some ⟨.warning, s.timeCount, s.timers.warning⟩ }

/-- Warning does not bear on selection (R35). -/
theorem selectable_inWarning (s : State) (c : CallRecord) : (c.inWarning s).selectable = c.selectable := rfl

/-- The state that the expiry of a QUEUE deadline of call `c` makes (R146, R154). -/
abbrev queueExpired (c : CallRecord) (s : State) : State := queueExpiryEffect c (clearDeadline c.ref s)

theorem queueExpired_frame (c : CallRecord) (s : State) : CallsOnly s (queueExpired c s) :=
  ((CallsOnly.refl s).modCall c.ref _).modCall c.ref _

theorem slot_queueExpired (c : CallRecord) (s : State) (n : Nat) :
    (queueExpired c s).slot n = if n = slotOf c.ref then (s.slot n).mapCall (CallRecord.inWarning s) else s.slot n := by
  rw [queueExpired, queueExpiryEffect, slot_modCall, clearDeadline, slot_modCall]
  by_cases own : n = slotOf c.ref
  · rw [if_pos own, if_pos own, if_pos own, Slot.mapCall, Slot.mapCall, Option.map_map]
    rfl
  · rw [if_neg own, if_neg own, if_neg own]

theorem call_queueExpired (c : CallRecord) (s : State) (r : Nat) :
    (queueExpired c s).call r = if slotOf r = slotOf c.ref then (s.call r).map (CallRecord.inWarning s) else s.call r := by
  rw [State.call, slot_queueExpired, State.call]
  split <;> rfl

theorem call_queueExpired_self {c : CallRecord} (live : s.call c.ref = some c) :
    (queueExpired c s).call c.ref = some (c.inWarning s) := by
  rw [call_queueExpired, if_pos rfl, live, Option.map_some]

/-- A night-bound call is selectable neither before nor in warning, so that the selectable calls are as they were. -/
theorem groupLamp_queueExpired_nightBound {c : CallRecord} (live : s.call c.ref = some c) (night : c.nightBound = true)
    (g : Nat) : groupLamp g (queueExpired c s) = groupLamp g s := by
  refine groupLamp_congr (selectableCalls_congr rfl fun r => ?_) rfl
  rw [call_queueExpired]
  by_cases own : slotOf r = slotOf c.ref
  · have named : s.call r = some c := by rw [← live, State.call, own, State.call]
    have unselectable : c.selectable = false := by rw [CallRecord.selectable, night, Bool.not_true, Bool.and_false]
    rw [if_pos own, named, Option.map_some, Option.filter_some, Option.filter_some, selectable_inWarning, unselectable]
    rfl
  · rw [if_neg own]

theorem groupLamp_queueExpired_selectable {c : CallRecord} (live : s.call c.ref = some c)
    (selectable : c.selectable = true) (queued : c.ref ∈ (s.group c.group).queue) :
    groupLamp c.group (queueExpired c s) = .flash :=
  groupLamp_flash (mem_selectableCalls queued (call_queueExpired_self live) selectable) rfl

/-! ## The event -/

theorem sameRegisters_begun (s : State) : SameRegisters s s.begun := by simp [SameRegisters]

/-- An event of the part's own ends no transaction: it begins one at most (R184). -/
theorem CallsOnly.sameLink_endEvent (h : CallsOnly s.begun after) : SameLink s (endEvent before after) := by
  unfold CallsOnly at h
  rw [h]
  simp [SameLink]

theorem exec_queueExpiry_taken {n : Nat} {c : CallRecord} (admits : Admits s) (due : Due n .queue c s)
    (queued : c.state = .queued) :
    exec (.queueExpiry n) s = .next (endEvent s.begun (queueExpired c s.begun)) := by
  obtain ⟨outOfReset, reserve⟩ := admits
  obtain ⟨live, -, fallenDue⟩ := due
  cases running : c.deadline with
  | none => simp [running] at fallenDue
  | some d =>
    obtain ⟨kind, past⟩ : d.kind = .queue ∧ d.due s.timeCount = true := by simpa [running] using fallenDue
    show execQueueExpiry n s = _
    rw [execQueueExpiry, insideEvent_eq _ outOfReset]
    rw [expiryStep_taken n .queue _ _ c d (by rwa [begun_reserveFree]) (by rwa [begun_slot]) running kind
      (decide_eq_true queued) (by rwa [begun_timeCount])]

end

/-- Settles O29: the event changes the one record, and neither a queue nor an alarm depth, so that a lamp changes by the
warning of a selectable call only. -/
theorem queueExpiryEntersWarning : Obligations.QueueExpiryEntersWarning := by
  rintro s _ c admits due queued
  obtain ⟨live, rfl, -⟩ := id due
  have liveBegun : s.begun.call c.ref = some c := by rw [begun_call]; exact live
  have slot : ∀ n, (endEvent s.begun (queueExpired c s.begun)).slot n =
      if n = slotOf c.ref then (s.slot n).mapCall (CallRecord.inWarning s.begun) else s.slot n := fun n => by
    rw [slot_endEvent, slot_queueExpired, begun_slot]
  have frame := queueExpired_frame c s.begun
  refine ⟨_, exec_queueExpiry_taken admits due queued, ?warned, ?flash, ?night, ?outbound,
    fun n hn => (slot n).trans (if_neg hn), sameGroups_endEvent (begun_group s),
    samePositions_endEvent (begun_pos s) (begun_pos s),
    ?directory, ?counter, ?registers, frame.sameLink_endEvent⟩
  case warned =>
    rw [slot, if_pos rfl, Slot.mapCall, live, Option.map_some, CallRecord.inWarning, begun_timeCount, begun_timers]
  case flash =>
    intro day inQueue
    rw [groupLamp_endEvent]
    exact groupLamp_queueExpired_selectable liveBegun (by rw [CallRecord.selectable, queued, day]; rfl)
      (by rwa [begun_group])
  case night =>
    intro night g
    rw [groupLamp_endEvent, groupLamp_queueExpired_nightBound liveBegun night]
    exact groupLamp_begun s g
  case outbound => exact (endEvent_outbound _ _).trans (begun_outbound s)
  case directory =>
    exact ⟨(endEvent_stations _ _).trans (begun_stations s), (endEvent_hunts _ _).trans (begun_hunts s)⟩
  case counter => exact (endEvent_arrivalCounter _ _).trans (begun_arrivalCounter s)
  case registers =>
    exact ((sameRegisters_begun s).trans frame.sameRegisters).trans (sameRegisters_endEvent _ _)

end Sys2Proof.Machine
end
